-- ==== Sys2Proof/Word.lean ====
section
/-! DEFINITION. The word types of the block: bytes and 32-bit host words (20_memory.md R59). -/

namespace Sys2Proof

/-- A byte of the payload buffer, of a message, or of the wire (R59: BUF accesses and exchanges are 8 bits). -/
abbrev Byte := BitVec 8

/-- A command word, or the value of a host register (R59: 32 bits). -/
abbrev Word := BitVec 32

end Sys2Proof
end

