-- ==== Sys2Proof/Syntax.lean ====
section
/-! DEFINITION. The commands of 30_encoding.md R66: one constructor per row of spec/opcode_table.json, with the
fields the row uses, at the widths of format C (R60). -/

namespace Sys2Proof

/-- A command of the block. LEN may be any value its 10 bits admit: the range check is the block's (R67). -/
inductive Instr where
  | crc7Init
  | crc7Update (data : BitVec 8)
  | crc7Buf (len : BitVec 10)
  | crc16Init
  | crc16Update (data : BitVec 8)
  | crc16Buf (len : BitVec 10)
  | bufWrite (idx : BitVec 9) (data : BitVec 8)
  | bufRead (idx : BitVec 9)
  | sendBlock (len : BitVec 10)
  | receiveBlock (len : BitVec 10)
  | clrStatus
deriving DecidableEq, Repr

end Sys2Proof
end

