-- ==== Sys2Proof/Decode.lean ====
section
/-! DEFINITION. Decoding and encoding of command words: format C (30_encoding.md R60, R61), the opcode map (R66) and
legality (R65, R68). A command is one host write of 32 bits (R70), so the decoder reads one word. -/

namespace Sys2Proof

/-- The eleven assigned operations (R66). -/
inductive Op where
  | crc7Init | crc7Update | crc7Buf | crc16Init | crc16Update | crc16Buf
  | bufWrite | bufRead | sendBlock | receiveBlock | clrStatus
deriving DecidableEq, Repr

/-- Why a command word is illegal (R65, R68). -/
inductive DecodeError where
  /-- The OP field is 0x0 or 0xC to 0xF. -/
  | reservedOpcode (op : BitVec 4)
  /-- RSV or a field the operation does not use is not 0. -/
  | strayBits (op : Op)
deriving DecidableEq, Repr

/-- OP = w[31:28] (R61). -/
def opField (w : Word) : BitVec 4 := w.extractLsb' 28 4

/-- LEN = w[27:18] (R61). -/
def lenField (w : Word) : BitVec 10 := w.extractLsb' 18 10

/-- IDX = w[17:9] (R61). -/
def idxField (w : Word) : BitVec 9 := w.extractLsb' 9 9

/-- RSV = w[8] (R60). -/
def rsvField (w : Word) : BitVec 1 := w.extractLsb' 8 1

/-- DATA = w[7:0] (R61). -/
def dataField (w : Word) : BitVec 8 := w.extractLsb' 0 8

/-- Format C put together from its fields, OP in the high bits (R60). -/
def formatC (op : BitVec 4) (len : BitVec 10) (idx : BitVec 9) (rsv : BitVec 1) (data : BitVec 8) : Word :=
  op ++ (len ++ (idx ++ (rsv ++ data)))

/-- The opcode of an operation (R66, column OP). -/
def Op.code : Op → BitVec 4
  | .crc7Init => 0x1#4
  | .crc7Update => 0x2#4
  | .crc7Buf => 0x3#4
  | .crc16Init => 0x4#4
  | .crc16Update => 0x5#4
  | .crc16Buf => 0x6#4
  | .bufWrite => 0x7#4
  | .bufRead => 0x8#4
  | .sendBlock => 0x9#4
  | .receiveBlock => 0xA#4
  | .clrStatus => 0xB#4

/-- The operation of an OP field; none for the reserved values 0x0 and 0xC to 0xF (R66, R68). -/
def Op.ofCode (c : BitVec 4) : Option Op :=
  match c.toNat with
  | 1 => some .crc7Init
  | 2 => some .crc7Update
  | 3 => some .crc7Buf
  | 4 => some .crc16Init
  | 5 => some .crc16Update
  | 6 => some .crc16Buf
  | 7 => some .bufWrite
  | 8 => some .bufRead
  | 9 => some .sendBlock
  | 10 => some .receiveBlock
  | 11 => some .clrStatus
  | _ => none

/-- R66, column MATCH. -/
def Op.matchWord : Op → Word
  | .crc7Init => 0x10000000#32
  | .crc7Update => 0x20000000#32
  | .crc7Buf => 0x30000000#32
  | .crc16Init => 0x40000000#32
  | .crc16Update => 0x50000000#32
  | .crc16Buf => 0x60000000#32
  | .bufWrite => 0x70000000#32
  | .bufRead => 0x80000000#32
  | .sendBlock => 0x90000000#32
  | .receiveBlock => 0xA0000000#32
  | .clrStatus => 0xB0000000#32

/-- R66, column MASK. -/
def Op.mask : Op → Word
  | .crc7Init => 0xFFFFFFFF#32
  | .crc7Update => 0xFFFFFF00#32
  | .crc7Buf => 0xF003FFFF#32
  | .crc16Init => 0xFFFFFFFF#32
  | .crc16Update => 0xFFFFFF00#32
  | .crc16Buf => 0xF003FFFF#32
  | .bufWrite => 0xFFFC0100#32
  | .bufRead => 0xFFFC01FF#32
  | .sendBlock => 0xF003FFFF#32
  | .receiveBlock => 0xF003FFFF#32
  | .clrStatus => 0xFFFFFFFF#32

/-- The command of an operation, its operands taken from the word's fields as they stand (R61). -/
def Op.build (op : Op) (w : Word) : Instr :=
  match op with
  | .crc7Init => .crc7Init
  | .crc7Update => .crc7Update (dataField w)
  | .crc7Buf => .crc7Buf (lenField w)
  | .crc16Init => .crc16Init
  | .crc16Update => .crc16Update (dataField w)
  | .crc16Buf => .crc16Buf (lenField w)
  | .bufWrite => .bufWrite (idxField w) (dataField w)
  | .bufRead => .bufRead (idxField w)
  | .sendBlock => .sendBlock (lenField w)
  | .receiveBlock => .receiveBlock (lenField w)
  | .clrStatus => .clrStatus

/-- R65: a word is legal when its opcode is assigned and `w & MASK = MATCH`. Total on every word (R69). -/
def decode (w : Word) : Except DecodeError Instr :=
  match Op.ofCode (opField w) with
  | none => .error (.reservedOpcode (opField w))
  | some op => if w &&& op.mask = op.matchWord then .ok (op.build w) else .error (.strayBits op)

/-- The operation of a command. -/
def Instr.op : Instr → Op
  | .crc7Init => .crc7Init
  | .crc7Update _ => .crc7Update
  | .crc7Buf _ => .crc7Buf
  | .crc16Init => .crc16Init
  | .crc16Update _ => .crc16Update
  | .crc16Buf _ => .crc16Buf
  | .bufWrite _ _ => .bufWrite
  | .bufRead _ => .bufRead
  | .sendBlock _ => .sendBlock
  | .receiveBlock _ => .receiveBlock
  | .clrStatus => .clrStatus

/-- The command word of a command: every field it does not use, and RSV, is 0 (R60, R62). -/
def encode : Instr → Word
  | .crc7Init => formatC 0x1#4 0#10 0#9 0#1 0#8
  | .crc7Update d => formatC 0x2#4 0#10 0#9 0#1 d
  | .crc7Buf n => formatC 0x3#4 n 0#9 0#1 0#8
  | .crc16Init => formatC 0x4#4 0#10 0#9 0#1 0#8
  | .crc16Update d => formatC 0x5#4 0#10 0#9 0#1 d
  | .crc16Buf n => formatC 0x6#4 n 0#9 0#1 0#8
  | .bufWrite i d => formatC 0x7#4 0#10 i 0#1 d
  | .bufRead i => formatC 0x8#4 0#10 i 0#1 0#8
  | .sendBlock n => formatC 0x9#4 n 0#9 0#1 0#8
  | .receiveBlock n => formatC 0xA#4 n 0#9 0#1 0#8
  | .clrStatus => formatC 0xB#4 0#10 0#9 0#1 0#8

/-- The command the decoder reads from a table row's bits, bit 0 the least significant: the word has no byte lanes
(20_memory.md R46), so the table's numbering is the word's own. None where the word is illegal, or where a bit above
bit 31 is set: no command is longer than 32 bits (R60, R70). -/
def decodeTableWord (nbits w : Nat) : Option Instr :=
  if w % 2 ^ nbits < 2 ^ 32 then
    match decode (BitVec.ofNat 32 (w % 2 ^ nbits)) with
    | .ok i => some i
    | .error _ => none
  else none

end Sys2Proof
end

