-- ==== Sys2Proof/Machine/Constants.lean ====
section
/-! DEFINITION. The fixed parameters of 00_scope.md R7. -/

namespace Sys2Proof.Machine

/-- BLOCK_MAX: the largest payload a block command moves (R7). -/
def blockMax : Nat := 512

/-- BUF_SIZE (R7, D19). -/
def bufSize : Nat := 512

/-- START_TOKEN (R7). -/
def startToken : Byte := 0xFE#8

/-- NO_TOKEN_BYTE: the stuff byte that is not a data-response token (R7). -/
def noTokenByte : Byte := 0xFF#8

/-- DRT_ACCEPTED, compared with the low nibble of the data-response token (R7, R148; not the 5-bit rule, C2). -/
def drtAccepted : BitVec 4 := 0x5#4

/-- CRC7_POLY: x^7 + x^3 + 1 as an 8-bit value with the x^7 term (R7). -/
def crc7Poly : BitVec 8 := 0x89#8

/-- CRC7_INIT (R7, D6). -/
def crc7Start : BitVec 7 := 0x00#7

/-- CRC16_POLY, the x^16 term implicit (R7, D7). -/
def crc16Poly : BitVec 16 := 0x1021#16

/-- CRC16_INIT (R7, D7; not the 0xFFFF variant, C4). -/
def crc16Start : BitVec 16 := 0x0000#16

/-- FILL_BYTE: sent while the block only receives (R7, R48, D9). -/
def fillByte : Byte := 0xFF#8

/-- BUSY_IDLE_BYTE: the received byte that ends the busy poll (R7, D11). -/
def busyIdleByte : Byte := 0xFF#8

/-- The value DRT takes when SEND_BLOCK is issued and at reset (R24, R37, D23). -/
def drtNone : Byte := 0xFF#8

end Sys2Proof.Machine
end

