-- ==== Sys2Proof/Machine/Crc.lean ====
section
/-! DEFINITION. The pure checksum functions of 40_crc.md R80 to R87: every rule that computes a checksum uses these and
no other definition (00_scope.md R17). -/

namespace Sys2Proof.Machine

/-- The bit numbers of a byte in the order both generators take them, most significant first (R44, R81, R86). -/
def bitsMsbFirst : List Nat := [7, 6, 5, 4, 3, 2, 1, 0]

/-- `crc7_bit` (R80): shift the remainder left into 8 bits, fold the message bit into bit 7, and reduce by the
polynomial if bit 7 is then set. -/
def crc7Bit (c : BitVec 7) (b : Bool) : BitVec 7 :=
  let u : BitVec 8 := (c ++ 0#1) ^^^ ((BitVec.ofBool b).setWidth 8 <<< 7)
  let u : BitVec 8 := if u.getLsbD 7 then u ^^^ crc7Poly else u
  u.extractLsb' 0 7

/-- `crc7_byte` (R81). -/
def crc7Byte (c : BitVec 7) (d : Byte) : BitVec 7 :=
  bitsMsbFirst.foldl (fun c i => crc7Bit c (d.getLsbD i)) c

/-- `crc7` of a byte string (R82). -/
def crc7 (s : List Byte) : BitVec 7 := s.foldl crc7Byte crc7Start

/-- The trailer byte of a command frame, `((c << 1) | 1)[7:0]` (R84). -/
def trailer (c : BitVec 7) : Byte := c ++ 1#1

/-- `crc16_bit` (R85). -/
def crc16Bit (c : BitVec 16) (b : Bool) : BitVec 16 :=
  let fb : Bool := b ^^ c.getLsbD 15
  let c' : BitVec 16 := c <<< 1
  if fb then c' ^^^ crc16Poly else c'

/-- `crc16_byte` (R86). -/
def crc16Byte (c : BitVec 16) (d : Byte) : BitVec 16 :=
  bitsMsbFirst.foldl (fun c i => crc16Bit c (d.getLsbD i)) c

/-- `crc16` of a byte string: no final exclusive-or (R87). -/
def crc16 (s : List Byte) : BitVec 16 := s.foldl crc16Byte crc16Start

/-- The more significant CRC-16 byte, `c[15:8]`: the first of the two on the wire (R45). -/
def crcHi (c : BitVec 16) : Byte := c.extractLsb' 8 8

/-- The less significant CRC-16 byte, `c[7:0]` (R45). -/
def crcLo (c : BitVec 16) : Byte := c.extractLsb' 0 8

end Sys2Proof.Machine
end

