-- ==== Sys2Proof/Machine/Operands.lean ====
section
/-! DEFINITION. Operand forms: the two length checks of 30_encoding.md R67 and the absolute buffer index of
41_buffer_status.md R110. -/

namespace Sys2Proof.Machine

/-- R67 for CRC7_BUF and CRC16_BUF: LEN from 0 to 512. -/
def crcLenInRange (len : BitVec 10) : Bool := decide (len.toNat ≤ blockMax)

/-- R67 for SEND_BLOCK and RECEIVE_BLOCK: LEN from 1 to 512. -/
def blockLenInRange (len : BitVec 10) : Bool := decide (1 ≤ len.toNat) && decide (len.toNat ≤ blockMax)

/-- The BUF index an IDX field names: absolute, unsigned, used as it stands (R61, R110). -/
def bufIndex (idx : BitVec 9) : Nat := idx.toNat

end Sys2Proof.Machine
end

