-- ==== Sys2Proof/Config.lean ====
section
/-! DEFINITION. What the spec leaves open: the OPEN parameters of 00_scope.md R7 and the free values of
93_implementation_defined.md U1 to U3. Each is an opaque constant: nothing can evaluate it or prove a value of it. -/

namespace Sys2Proof

/-- The outcome of one exchange `Xfer(t)` (R14, R49): a received byte, or `Unavail`. An exchange always returns (R50). -/
inductive XferResult where
  | ok (r : Byte)
  | unavail
deriving DecidableEq, Repr, Inhabited

/-- The OPEN poll limits of R7, counted in exchanges (92_eei_decisions.md D10). -/
structure Limits where
  nStart : Nat
  nToken : Nat
  nBusy  : Nat
deriving DecidableEq, Repr

namespace Config

/-- N_START - 1: OPEN, and N_START ≥ 1 (R7). -/
opaque nStartLessOne : Nat

/-- N_TOKEN - 1: OPEN, and N_TOKEN ≥ 1 (R7). -/
opaque nTokenLessOne : Nat

/-- N_BUSY - 1: OPEN, and N_BUSY ≥ 1 (R7). -/
opaque nBusyLessOne : Nat

/-- The block's own limits: each at least 1, otherwise uninterpreted (R7, U4; DESIGN CHOICE of form, log 4). -/
def limits : Limits :=
  { nStart := nStartLessOne + 1, nToken := nTokenLessOne + 1, nBusy := nBusyLessOne + 1 }

/-- The free outcome of the n-th exchange that no listed answer covers (R14, U2, U3; log 2). -/
opaque freeXfer : Nat → XferResult

/-- The free value of BUF byte `i` under draw number `d`, until it is written (R37, R38, U1; log 3). -/
opaque bufAtReset : Nat → Nat → Byte

/-- SDCRC_BASE: OPEN, left to the integrator, read by no rule (20_memory.md R42) and by no definition here. -/
opaque sdcrcBase : Nat

end Config

end Sys2Proof
end

