-- ==== Sys2Proof/Machine/State.lean ====
section
/-! DEFINITION. The state of the machine: the block's registers, buffer, status and sequencer (10_state.md R20 to R37),
and beside them the model's own fields: the parameters, the pending inputs, the card's answers and the trace. -/

namespace Sys2Proof.Machine

/-- PHASE (R28). -/
inductive Phase where
  | idle
  | rxStart | rxData | rxCrcHi | rxCrcLo
  | txStart | txData | txCrcHi | txCrcLo | txToken | txBusy
deriving DecidableEq, Repr

/-- The result codes 0 to 6 of 60_exceptions.md R170. Code 7 is reserved and never produced (R27, U16): it has no name. -/
inductive ResultCode where
  | ok | protocol | timeout | crcMismatch | busUnavailable | range | illegal
deriving DecidableEq, Repr

/-- What can reach the block or its surroundings between two steps. The order of the list of inputs is the order in
which the events happen (R53, R176; log 1). -/
inductive Input where
  /-- `HostWrite(n, v)` (R16, R29). -/
  | hostWrite (n : BitVec 4) (v : Word)
  /-- `HostRead(n)` (R16, R30). -/
  | hostRead (n : BitVec 4)
  /-- The pseudo `wait`: read STATUS until its bit 0 is 0 (R72; log 14). -/
  | wait
  /-- The block takes its step now, before the next event of the list (R53, R128). -/
  | blockStep
  /-- Reset (R191). -/
  | reset
  /-- The host makes an exchange of its own on the transport (R51, R197). -/
  | hostExchange
  /-- The host reopens the transport at another clock rate (R51, R197). -/
  | transportReopen
  /-- The host asserts (true) or deasserts (false) chip-select (R47, R198). -/
  | chipSelect (asserted : Bool)
  /-- An access by a second host (R183). -/
  | secondHostAccess
deriving DecidableEq, Repr

/-- What the block shows outside (R52): an exchange `(t, outcome)`, or a value the host read. -/
inductive Event where
  | exchange (t : Byte) (o : XferResult)
  | hostRead (n : BitVec 4) (v : Word)
deriving DecidableEq, Repr

/-- BUF: the bytes written since reset, as (index, byte) pairs in strictly rising order. An index with no entry has
not been written since reset, and has no value of its own (R37, R38; log 3). -/
abbrev Memory := List Host.Cell

/-- Why the machine stops with a fault. The spec gives the block none (R173): every error is a completion. -/
inductive Fault where
  /-- Raised by a sequencer step in phase RX_DATA or TX_DATA whose IDX is 512 or more, an index BUF does not have
  (R22, R41). No run from reset reaches it. Safe: the machine stops where no rule gives an effect (log 10). -/
  | bufIndexOutOfRange
deriving DecidableEq, Repr

/-- Why the model gives a run no meaning. -/
inductive Refusal where
  /-- Raised by exec for an instruction that has no meaning yet; no arm of exec raises it now. Safe. -/
  | notModelled (mnemonic : String)
  /-- Raised by a host exchange on the transport while BUSY = 1: R197 has a model refuse it. Safe. -/
  | hostExchangeWhileBusy
  /-- Raised when the host reopens the transport while BUSY = 1: R197, U6 have a model refuse it. Safe. -/
  | transportReopenWhileBusy
  /-- Raised when the host deasserts chip-select while BUSY = 1: R198, U7 have a model refuse it. Safe. -/
  | chipSelectReleasedWhileBusy
  /-- Raised by a step of a block command while the host has chip-select deasserted: R198 has it asserted before the first
  exchange, and 92_eei_decisions.md D16 has a run that breaks the bracket refused. Safe. -/
  | chipSelectNotAsserted
  /-- Raised by an access of a second host: R183, U8 have a model refuse it. Safe. -/
  | secondHost
deriving DecidableEq, Repr

/-- The machine. -/
structure State where
  /-- C7, 7 bits (R20). -/
  c7 : BitVec 7
  /-- C16, 16 bits (R21). -/
  c16 : BitVec 16
  /-- BUF, 512 bytes (R22). -/
  buf : Memory
  /-- RXCRC, 16 bits (R23). -/
  rxcrc : BitVec 16
  /-- DRT, 8 bits (R24). -/
  drt : Byte
  /-- RDATA, 8 bits (R25). -/
  rdata : Byte
  /-- STATUS.VALID (R26). -/
  valid : Bool
  /-- STATUS.OVERRUN (R26). -/
  overrun : Bool
  /-- STATUS.RESULT (R26, R27). -/
  result : ResultCode
  /-- PHASE (R28). STATUS.BUSY is PHASE ≠ IDLE. -/
  phase : Phase
  /-- LEN, 10 bits (R28). -/
  len : BitVec 10
  /-- IDX, 10 bits (R28). -/
  idx : BitVec 10
  /-- CNT (R28: a model may use an unbounded natural). -/
  cnt : Nat
  /-- The model's own: the OPEN parameters N_START, N_TOKEN, N_BUSY (R7; log 4). No step writes it. -/
  limits : Limits
  /-- The model's own: the events still to come, first first (log 1). -/
  inputs : List Input
  /-- The model's own: the outcomes of the next exchanges, first first (log 2). -/
  card : List XferResult
  /-- The model's own: the number of the next free exchange outcome (log 2). -/
  xferDraw : Nat
  /-- The model's own: whether the host has chip-select asserted (R47, R198; log 12). It is the host's, not the block's
  (R35): no register read and no effect of a command depends on it. -/
  selected : Bool
  /-- The model's own: the number of the present draw of unwritten BUF bytes (log 3). -/
  bufDraw : Nat
  /-- The model's own: what the block has shown outside, oldest first (R52; log 8). -/
  trace : List Event
deriving DecidableEq, Repr

/-- The machine right after reset: R37 for every element of the block; the model's own fields as logs 1 to 4, 8 and 12
say. -/
def State.reset : State where
  c7 := crc7Start
  c16 := crc16Start
  buf := []
  rxcrc := 0x0000#16
  drt := 0xFF#8
  rdata := 0x00#8
  valid := false
  overrun := false
  result := .ok
  phase := .idle
  len := 0#10
  idx := 0#10
  cnt := 0
  limits := Config.limits
  inputs := []
  card := []
  xferDraw := 0
  selected := true
  bufDraw := 0
  trace := []

end Sys2Proof.Machine
end

