-- ==== Sys2Proof/Machine/Ops.lean ====
section
/-! DEFINITION. The shared operations: BUF, the end of a command, acceptance at the command port, one exchange, the
trace, reset. The block has no exceptions (60_exceptions.md R177 to R179): `finish` is how every command ends, errors
included (R15, R173), and nothing is saved or returned to. -/

namespace Sys2Proof.Machine

/-! ## BUF -/

/-- The byte written last at index `a` since reset; none if nothing wrote it (R38). -/
def Memory.read? : Memory → Nat → Option Byte
  | [], _ => none
  | (b, w) :: m, a => if a = b then some w else Memory.read? m a

/-- `BUF[a] <- v`, keeping the list in strictly rising order. -/
def Memory.write : Memory → Nat → Byte → Memory
  | [], a, v => [(a, v)]
  | (b, w) :: m, a, v =>
    if a < b then (a, v) :: (b, w) :: m
    else if a = b then (a, v) :: m
    else (b, w) :: Memory.write m a v

/-- The canonical form: indices strictly rising, each an index of BUF (R22). An unlisted index reads as a draw that no
entry can be compared with, so the form has no clause on values (log 3). -/
def Memory.wf (m : Memory) : Bool :=
  decide (m.Pairwise fun x y => x.1 < y.1) && m.all fun x => decide (x.1 < bufSize)

/-- What `BUF[a]` holds: the byte written there since reset, else the draw fixed at reset (R38, U1). This one
definition says what an unlisted index reads as. -/
def Memory.byte (m : Memory) (draw a : Nat) : Byte :=
  match m.read? a with
  | some v => v
  | none => Config.bufAtReset draw a

/-- `BUF[a]`. -/
def State.bufByte (s : State) (a : Nat) : Byte := s.buf.byte s.bufDraw a

/-- `BUF[0..n)` (R12). -/
def State.bufBytes (s : State) (n : Nat) : List Byte := (List.range n).map s.bufByte

/-- Whether every byte of `BUF[0..n)` has been written since reset (R38, R193). -/
def State.bufWritten (s : State) (n : Nat) : Bool := (List.range n).all fun a => (s.buf.read? a).isSome

/-! ## Completion and acceptance -/

/-- STATUS.BUSY: PHASE ≠ IDLE (R28). -/
def State.busy (s : State) : Bool := decide (s.phase ≠ .idle)

/-- `finish(code)` (R15): RESULT takes the code, BUSY becomes 0, PHASE becomes IDLE, and nothing else changes. LEN, IDX
and CNT keep their values: R15 lists every write of `finish`. -/
def finish (code : ResultCode) (s : State) : State := { s with result := code, phase := .idle }

/-- A command written while BUSY = 1 is dropped and sets OVERRUN (R64). -/
def dropCommand (s : State) : State := { s with overrun := true }

/-- The first decision at the command port (R63 case 1): a busy block drops the command, an idle one carries it out. -/
def accept (body : State → State) (s : State) : Host.Outcome State Fault Refusal :=
  if s.busy then .next (dropCommand s) else .next (body s)

/-! ## The transport -/

/-- The outcome of the next exchange (R14, R49): the card's next listed answer, else a free draw (log 2). -/
def State.reply (s : State) : XferResult :=
  match s.card with
  | o :: _ => o
  | [] => Config.freeXfer s.xferDraw

/-- Add an event to what the block has shown outside (R52). -/
def record (e : Event) (s : State) : State := { s with trace := s.trace ++ [e] }

/-- The state after `Xfer(t)`: its outcome is used up, and the exchange `(t, outcome)` is recorded (R14, R52). -/
def afterXfer (t : Byte) (s : State) : State :=
  { s with
    card := s.card.tail
    xferDraw := if s.card = [] then s.xferDraw + 1 else s.xferDraw
    trace := s.trace ++ [.exchange t s.reply] }

/-! ## Reset -/

/-- Reset (R190, R191): every element of the block takes its R37 value, a command in progress is abandoned with no
`finish`, and the unwritten BUF bytes are drawn anew. What stands outside the block is untouched: the parameters, the
inputs to come, the card, chip-select, and the events already shown (log 16). -/
def resetBlock (s : State) : State :=
  { State.reset with
    limits := s.limits
    inputs := s.inputs
    card := s.card
    xferDraw := s.xferDraw
    selected := s.selected
    bufDraw := s.bufDraw + 1
    trace := s.trace }

end Sys2Proof.Machine
end

