-- ==== Sys2Proof/Machine/BlockCommands.lean ====
section
/-! DEFINITION. The issue steps of the two block commands (42_block_framer.md R134, R141). The steps that follow are
those of Machine/Sequencer.lean. -/

namespace Sys2Proof.Machine

/-- SEND_BLOCK, issue step (R141, R67): no exchange. LEN is latched where the command is issued, not where it is
rejected (DEDUCED from R28 and R134, log 5). -/
def execSendBlock (len : BitVec 10) (s : State) : Host.Outcome State Fault Refusal :=
  accept (fun s =>
    if blockLenInRange len then
      { s with
        c16 := crc16 (s.bufBytes len.toNat)
        drt := drtNone
        len := len
        idx := 0#10
        cnt := 0
        phase := .txStart }
    else finish .range s) s

/-- RECEIVE_BLOCK, issue step (R134, R67): no exchange; VALID is cleared before the range check. -/
def execReceiveBlock (len : BitVec 10) (s : State) : Host.Outcome State Fault Refusal :=
  accept (fun s =>
    if blockLenInRange len then
      { s with
        valid := false
        c16 := crc16Start
        rxcrc := 0x0000#16
        len := len
        idx := 0#10
        cnt := 0
        phase := .rxStart }
    else finish .range { s with valid := false }) s

end Sys2Proof.Machine
end

