-- ==== Sys2Proof/Machine/BufferCommands.lean ====
section
/-! DEFINITION. The meanings of the buffer and status commands (41_buffer_status.md R111, R113, R117). -/

namespace Sys2Proof.Machine

/-- BUF_WRITE (R111): the byte is stored and VALID is cleared, whatever the byte was. -/
def execBufWrite (idx : BitVec 9) (data : BitVec 8) (s : State) : Host.Outcome State Fault Refusal :=
  accept (fun s => finish .ok { s with buf := s.buf.write (bufIndex idx) data, valid := false }) s

/-- BUF_READ (R113): RDATA takes the byte held, whatever VALID is; a byte nothing wrote since reset is a draw (R38). -/
def execBufRead (idx : BitVec 9) (s : State) : Host.Outcome State Fault Refusal :=
  accept (fun s => finish .ok { s with rdata := s.bufByte (bufIndex idx) }) s

/-- CLR_STATUS (R117). -/
def execClrStatus (s : State) : Host.Outcome State Fault Refusal :=
  accept (fun s => finish .ok { s with overrun := false }) s

end Sys2Proof.Machine
end

