-- ==== Sys2Proof/Machine/CrcCommands.lean ====
section
/-! DEFINITION. The meanings of the six CRC commands (40_crc.md R90 to R95). -/

namespace Sys2Proof.Machine

/-- CRC7_INIT (R90). -/
def execCrc7Init (s : State) : Host.Outcome State Fault Refusal :=
  accept (fun s => finish .ok { s with c7 := crc7Start }) s

/-- CRC7_UPDATE (R91). -/
def execCrc7Update (data : BitVec 8) (s : State) : Host.Outcome State Fault Refusal :=
  accept (fun s => finish .ok { s with c7 := crc7Byte s.c7 data }) s

/-- CRC7_BUF (R92, R67): from CRC7_INIT, not from the present C7; RANGE leaves C7 as it was. -/
def execCrc7Buf (len : BitVec 10) (s : State) : Host.Outcome State Fault Refusal :=
  accept (fun s =>
    if crcLenInRange len then finish .ok { s with c7 := crc7 (s.bufBytes len.toNat) } else finish .range s) s

/-- CRC16_INIT (R93). -/
def execCrc16Init (s : State) : Host.Outcome State Fault Refusal :=
  accept (fun s => finish .ok { s with c16 := crc16Start }) s

/-- CRC16_UPDATE (R94). -/
def execCrc16Update (data : BitVec 8) (s : State) : Host.Outcome State Fault Refusal :=
  accept (fun s => finish .ok { s with c16 := crc16Byte s.c16 data }) s

/-- CRC16_BUF (R95, R67): from CRC16_INIT, not from the present C16; RANGE leaves C16 as it was. -/
def execCrc16Buf (len : BitVec 10) (s : State) : Host.Outcome State Fault Refusal :=
  accept (fun s =>
    if crcLenInRange len then finish .ok { s with c16 := crc16 (s.bufBytes len.toNat) } else finish .range s) s

end Sys2Proof.Machine
end

