-- ==== Sys2Proof/Machine/Dispatch.lean ====
section
/-! DEFINITION. The meaning of a legal command written to the command port (30_encoding.md R63, R66). -/

namespace Sys2Proof.Machine

def exec (i : Instr) (s : State) : Host.Outcome State Fault Refusal :=
  match i with
  | .crc7Init => Sys2Proof.Machine.execCrc7Init s
  | .crc7Update data => Sys2Proof.Machine.execCrc7Update data s
  | .crc7Buf len => Sys2Proof.Machine.execCrc7Buf len s
  | .crc16Init => Sys2Proof.Machine.execCrc16Init s
  | .crc16Update data => Sys2Proof.Machine.execCrc16Update data s
  | .crc16Buf len => Sys2Proof.Machine.execCrc16Buf len s
  | .bufWrite idx data => Sys2Proof.Machine.execBufWrite idx data s
  | .bufRead idx => Sys2Proof.Machine.execBufRead idx s
  | .sendBlock len => Sys2Proof.Machine.execSendBlock len s
  | .receiveBlock len => Sys2Proof.Machine.execReceiveBlock len s
  | .clrStatus => Sys2Proof.Machine.execClrStatus s

end Sys2Proof.Machine
end

