-- ==== Sys2Proof/Machine/Flags.lean ====
section
/-! DEFINITION. STATUS and its parts: the numbers of the result codes (60_exceptions.md R170), the STATUS word
(10_state.md R26), the token test (42_block_framer.md R148), the busy poll's result (R147). -/

namespace Sys2Proof.Machine

/-- The number of a result code (R170). -/
def ResultCode.code : ResultCode → BitVec 3
  | .ok => 0#3
  | .protocol => 1#3
  | .timeout => 2#3
  | .crcMismatch => 3#3
  | .busUnavailable => 4#3
  | .range => 5#3
  | .illegal => 6#3

/-- The STATUS word (R26): RESULT in bits 6:4, bit 3 reserved, OVERRUN bit 2, VALID bit 1, BUSY bit 0; bits 31:7 read 0. -/
def State.statusWord (s : State) : Word :=
  0#25 ++ (s.result.code ++ (0#1 ++ (BitVec.ofBool s.overrun ++ (BitVec.ofBool s.valid ++ BitVec.ofBool s.busy))))

/-- R148: a data-response token is accepted exactly when its low nibble is 0x5; bits 7:4 are ignored. -/
def tokenAccepted (d : Byte) : Bool := decide (d.extractLsb' 0 4 = drtAccepted)

/-- The result of a busy poll that found the line idle (R147, R148). -/
def tokenResult (d : Byte) : ResultCode := if tokenAccepted d then .ok else .protocol

/-- The result of the deframer's check, and whether it sets VALID (R138). -/
def crcCheck (computed received : BitVec 16) : ResultCode := if computed = received then .ok else .crcMismatch

end Sys2Proof.Machine
end

