-- ==== Sys2Proof/Machine/Sequencer.lean ====
section
/-! DEFINITION. The sequencer: one step of a block command is one exchange (42_block_framer.md R128 to R148). Each phase
has a definition for what it does with the received byte; `Unavail` is treated alike in every phase (R129). -/

namespace Sys2Proof.Machine

/-- The byte the block transmits in its present phase: the fill byte while it only receives (R48). In phase IDLE no
exchange is made. -/
def txByte (s : State) : Byte :=
  match s.phase with
  | .idle => fillByte
  | .rxStart => fillByte
  | .rxData => fillByte
  | .rxCrcHi => fillByte
  | .rxCrcLo => fillByte
  | .txStart => startToken
  | .txData => s.bufByte s.idx.toNat
  | .txCrcHi => crcHi s.c16
  | .txCrcLo => crcLo s.c16
  | .txToken => fillByte
  | .txBusy => fillByte

/-- RX_START, the start-token poll (R135). -/
def rxStart (r : Byte) (s : State) : State :=
  let c := s.cnt + 1
  if r = startToken then { s with phase := .rxData, cnt := c }
  else if c = s.limits.nStart then finish .timeout { s with cnt := c }
  else { s with cnt := c }

/-- RX_DATA, one payload byte (R136). -/
def rxData (r : Byte) (s : State) : State :=
  let i := s.idx
  { s with
    buf := s.buf.write i.toNat r
    c16 := crc16Byte s.c16 r
    idx := i + 1#10
    phase := if i + 1#10 = s.len then .rxCrcHi else .rxData }

/-- RX_CRC_HI, the first CRC byte (R137). -/
def rxCrcHi (r : Byte) (s : State) : State := { s with rxcrc := r ++ 0x00#8, phase := .rxCrcLo }

/-- RX_CRC_LO, the second CRC byte and the check (R138): VALID is set only where the two agree. -/
def rxCrcLo (r : Byte) (s : State) : State :=
  let rx : BitVec 16 := crcHi s.rxcrc ++ r
  if s.c16 = rx then finish .ok { s with rxcrc := rx, valid := true }
  else finish .crcMismatch { s with rxcrc := rx }

/-- TX_START (R142): the received byte is discarded. -/
def txStart (_r : Byte) (s : State) : State := { s with phase := .txData }

/-- TX_DATA, one payload byte (R143): the received byte is discarded. -/
def txData (_r : Byte) (s : State) : State :=
  let i := s.idx
  { s with idx := i + 1#10, phase := if i + 1#10 = s.len then .txCrcHi else .txData }

/-- TX_CRC_HI (R144). -/
def txCrcHi (_r : Byte) (s : State) : State := { s with phase := .txCrcLo }

/-- TX_CRC_LO (R145). -/
def txCrcLo (_r : Byte) (s : State) : State := { s with cnt := 0, phase := .txToken }

/-- TX_TOKEN, the data-response token poll (R146). -/
def txToken (r : Byte) (s : State) : State :=
  let c := s.cnt + 1
  if r ≠ noTokenByte then { s with drt := r, cnt := 0, phase := .txBusy }
  else if c = s.limits.nToken then finish .timeout { s with cnt := c }
  else { s with cnt := c }

/-- TX_BUSY, the busy poll (R147): the token is looked at only once the line reads idle, and CNT is left as it is then. -/
def txBusy (r : Byte) (s : State) : State :=
  let c := s.cnt + 1
  if r = busyIdleByte then finish (tokenResult s.drt) s
  else if c = s.limits.nBusy then finish .timeout { s with cnt := c }
  else { s with cnt := c }

/-- What the present phase does with a received byte (R130). -/
def phaseStep (r : Byte) (s : State) : State :=
  match s.phase with
  | .idle => s
  | .rxStart => rxStart r s
  | .rxData => rxData r s
  | .rxCrcHi => rxCrcHi r s
  | .rxCrcLo => rxCrcLo r s
  | .txStart => txStart r s
  | .txData => txData r s
  | .txCrcHi => txCrcHi r s
  | .txCrcLo => txCrcLo r s
  | .txToken => txToken r s
  | .txBusy => txBusy r s

/-- The end of a step, from its exchange's outcome: `Unavail` ends the command at once and does nothing else (R129). -/
def onReply (o : XferResult) (s : State) : State :=
  match o with
  | .ok r => phaseStep r s
  | .unavail => finish .busUnavailable s

/-- Whether the phase's step accesses `BUF[IDX]` (R136, R143). -/
def Phase.movesPayload : Phase → Bool
  | .rxData => true
  | .txData => true
  | _ => false

/-- The block's own step (R128): none while idle, where the block keeps every element (R185); else exactly one exchange,
then the update. With chip-select deasserted the exchange is outside its bracket and the run is refused (R198, D16; log 12).
An IDX outside BUF, which no run reaches, is a fault (R41, log 10). -/
def blockStep (s : State) : Host.Outcome State Fault Refusal :=
  if s.phase = .idle then .next s
  else if s.selected = false then .refused .chipSelectNotAsserted
  else if s.phase.movesPayload = true ∧ bufSize ≤ s.idx.toNat then .fault .bufIndexOutOfRange
  else .next (onReply s.reply (afterXfer (txByte s) s))

end Sys2Proof.Machine
end

