-- ==== Sys2Proof/Machine/Port.lean ====
section
/-! DEFINITION. The host interface: the command port, the register reads (10_state.md R29, R30), and every input of the
machine (20_memory.md R53; 70_reset_and_hazards.md R191, R197, R198; 60_exceptions.md R183). -/

namespace Sys2Proof.Machine

/-- An illegal word written while BUSY = 0 performs `finish(ILLEGAL)` and nothing else; while BUSY = 1 it is dropped
like every command word (R63, R64, R65). -/
def rejectIllegal (s : State) : Host.Outcome State Fault Refusal := accept (finish .illegal) s

/-- A command word arriving at the command port (R63). -/
def commandPort (w : Word) (s : State) : Host.Outcome State Fault Refusal :=
  match decode w with
  | .ok i => exec i s
  | .error _ => rejectIllegal s

/-- `HostWrite(n, v)` (R29, R116): register 0 is the command port, every other write does nothing. -/
def hostWrite (n : BitVec 4) (v : Word) (s : State) : Host.Outcome State Fault Refusal :=
  if n = 0#4 then commandPort v s else .next s

/-- The value of host register `n` (R30); 7 to 15 read 0. -/
def State.readReg (s : State) (n : BitVec 4) : Word :=
  match n.toNat with
  | 0 => s.statusWord
  | 1 => s.c7.setWidth 32
  | 2 => (trailer s.c7).setWidth 32
  | 3 => s.c16.setWidth 32
  | 4 => s.rxcrc.setWidth 32
  | 5 => s.drt.setWidth 32
  | 6 => s.rdata.setWidth 32
  | _ => 0#32

/-- `HostRead(n)` (R30, R115): no side effect on the block; the value read is shown outside (R52). -/
def hostRead (n : BitVec 4) (s : State) : State := record (.hostRead n (s.readReg n)) s

/-- One turn of the pseudo `wait` (R72): read STATUS; if its bit 0 is 1, the block takes a step and the host polls again
(DESIGN CHOICE of interleaving, log 14). -/
def hostWait (s : State) : State :=
  let t := hostRead 0#4 s
  if s.statusWord.getLsbD 0 then { t with inputs := .blockStep :: .wait :: t.inputs } else t

/-- One event of the list of inputs, with the rest of the list already in the state. What the host does on the transport while
BUSY = 0 leaves the block as it is (R51, log 11), and a change of chip-select is its level and nothing else (log 12). Between
the end of a block command and the host's read of BUSY = 0 these acts are let run, and while BUSY = 0 a host exchange or a reopening is let run whatever the level of chip-select
(DESIGN CHOICE, logs 11 and 12). -/
def onInput (e : Input) (s : State) : Host.Outcome State Fault Refusal :=
  match e with
  | .hostWrite n v => hostWrite n v s
  | .hostRead n => .next (hostRead n s)
  | .wait => .next (hostWait s)
  | .blockStep => blockStep s
  | .reset => .next (resetBlock s)
  | .hostExchange => if s.busy then .refused .hostExchangeWhileBusy else .next s
  | .transportReopen => if s.busy then .refused .transportReopenWhileBusy else .next s
  | .chipSelect asserted =>
    if s.busy && !asserted then .refused .chipSelectReleasedWhileBusy
    else .next { s with selected := asserted }
  | .secondHostAccess => .refused .secondHost

/-- The word of a command laid where the next step takes it: a pending write to the command port. -/
def fetchInput (nbits w : Nat) : Input := .hostWrite 0#4 (BitVec.ofNat 32 (w % 2 ^ nbits))

end Sys2Proof.Machine
end

