-- ==== Sys2Proof/Machine/Step.lean ====
section
/-! DEFINITION. One step of the machine: the next event of the list of inputs, or, when the list is used up, the block's
own step (20_memory.md R53; 42_block_framer.md R128; 70_reset_and_hazards.md R205). -/

namespace Sys2Proof.Machine

/-- One step. -/
def step (s : State) : Host.Outcome State Fault Refusal :=
  match s.inputs with
  | [] => blockStep s
  | e :: rest => onInput e { s with inputs := rest }

/-- The state whose next step is the write of this command word to the command port (R28, R29, R56; log 15). -/
def State.withFetchWord (s : State) (nbits w : Nat) : State := { s with inputs := fetchInput nbits w :: s.inputs }

end Sys2Proof.Machine
end

