-- ==== Sys2Proof/Machine/Assembler.lean ====
section
/-! DEFINITION. The assembler syntax of 30_encoding.md R71 and the pseudo-instructions of R72: lines, the check the
assembler makes of them, the host accesses they stand for, and the reading of a line's characters. -/

namespace Sys2Proof.Machine

/-- The register names `rd` takes (R30, R71). -/
inductive RegName where
  | status | crc7 | crc7t | crc16 | rxcrc | drt | rdata
deriving DecidableEq, Repr

/-- The register number of a name (R30). -/
def RegName.number : RegName → Nat
  | .status => 0
  | .crc7 => 1
  | .crc7t => 2
  | .crc16 => 3
  | .rxcrc => 4
  | .drt => 5
  | .rdata => 6

/-- A line of the assembler (R71, R72), its numbers as written. -/
inductive AsmLine where
  | crc7Init
  | crc7Upd (d : Nat)
  | crc7Buf (len : Nat)
  | crc16Init
  | crc16Upd (d : Nat)
  | crc16Buf (len : Nat)
  | bufWr (idx d : Nat)
  | bufRd (idx : Nat)
  | blkSend (len : Nat)
  | blkRecv (len : Nat)
  | statClr
  | cmd (w : Nat)
  | rd (n : Nat)
  | rdName (r : RegName)
  | wait
  | crc7Frame (b0 b1 b2 b3 b4 : Nat)
  | crc16Bytes (ds : List Nat)
  | bufFill (i : Nat) (ds : List Nat)
deriving DecidableEq, Repr

/-- The ranges of R71: `<d8>` 0 to 255, `<idx>` 0 to 511, `<len>` 0 to 1023, a word of 32 bits, a register 0 to 15;
and R72: `buf.fill` refuses an index above 511. A list of bytes has at least one (DEDUCED from R72's form, log 19). -/
def AsmLine.wellFormed : AsmLine → Bool
  | .crc7Init => true
  | .crc7Upd d => decide (d < 256)
  | .crc7Buf len => decide (len < 1024)
  | .crc16Init => true
  | .crc16Upd d => decide (d < 256)
  | .crc16Buf len => decide (len < 1024)
  | .bufWr idx d => decide (idx < 512) && decide (d < 256)
  | .bufRd idx => decide (idx < 512)
  | .blkSend len => decide (len < 1024)
  | .blkRecv len => decide (len < 1024)
  | .statClr => true
  | .cmd w => decide (w < 2 ^ 32)
  | .rd n => decide (n < 16)
  | .rdName _ => true
  | .wait => true
  | .crc7Frame b0 b1 b2 b3 b4 => [b0, b1, b2, b3, b4].all fun b => decide (b < 256)
  | .crc16Bytes ds => !ds.isEmpty && ds.all fun d => decide (d < 256)
  | .bufFill i ds => !ds.isEmpty && decide (i + ds.length ≤ 512) && ds.all fun d => decide (d < 256)

/-- The host access that issues a command: `HostWrite(0, w)` with the command's word (R60, R71). -/
def issueInput (i : Instr) : Input := .hostWrite 0#4 (encode i)

/-- `buf.wr i, d0`, `buf.wr i+1, d1`, … (R72). -/
def fillInputs (i : Nat) : List Nat → List Input
  | [] => []
  | d :: ds => issueInput (.bufWrite (BitVec.ofNat 9 i) (BitVec.ofNat 8 d)) :: fillInputs (i + 1) ds

/-- The host accesses of a line (R71, R72). -/
def AsmLine.inputs : AsmLine → List Input
  | .crc7Init => [issueInput .crc7Init]
  | .crc7Upd d => [issueInput (.crc7Update (BitVec.ofNat 8 d))]
  | .crc7Buf len => [issueInput (.crc7Buf (BitVec.ofNat 10 len))]
  | .crc16Init => [issueInput .crc16Init]
  | .crc16Upd d => [issueInput (.crc16Update (BitVec.ofNat 8 d))]
  | .crc16Buf len => [issueInput (.crc16Buf (BitVec.ofNat 10 len))]
  | .bufWr idx d => [issueInput (.bufWrite (BitVec.ofNat 9 idx) (BitVec.ofNat 8 d))]
  | .bufRd idx => [issueInput (.bufRead (BitVec.ofNat 9 idx))]
  | .blkSend len => [issueInput (.sendBlock (BitVec.ofNat 10 len))]
  | .blkRecv len => [issueInput (.receiveBlock (BitVec.ofNat 10 len))]
  | .statClr => [issueInput .clrStatus]
  | .cmd w => [.hostWrite 0#4 (BitVec.ofNat 32 w)]
  | .rd n => [.hostRead (BitVec.ofNat 4 n)]
  | .rdName r => [.hostRead (BitVec.ofNat 4 r.number)]
  | .wait => [.wait]
  | .crc7Frame b0 b1 b2 b3 b4 =>
    issueInput .crc7Init ::
      [b0, b1, b2, b3, b4].map fun b => issueInput (.crc7Update (BitVec.ofNat 8 b))
  | .crc16Bytes ds => issueInput .crc16Init :: ds.map fun d => issueInput (.crc16Update (BitVec.ofNat 8 d))
  | .bufFill i ds => fillInputs i ds

/-- Assembling a line: its host accesses, or none where the assembler refuses it. -/
def assemble (l : AsmLine) : Option (List Input) := if l.wellFormed then some l.inputs else none

/-! ## Reading a line's characters (R71: decimal or `0x` hexadecimal numbers, mnemonics without regard to case) -/

/-- A space or a tab. -/
def isBlank (c : Char) : Bool := c = ' ' || c = '\t'

/-- The text without blanks at its two ends. -/
def trimBlanks (cs : List Char) : List Char := ((cs.dropWhile isBlank).reverse.dropWhile isBlank).reverse

/-- The parts of a text between commas. -/
def splitCommas : List Char → List (List Char)
  | [] => [[]]
  | c :: cs =>
    if c = ',' then [] :: splitCommas cs
    else
      match splitCommas cs with
      | [] => [[c]]
      | x :: xs => (c :: x) :: xs

/-- The value of a digit in a base up to 16, the letters in lower case. -/
def digitValue (base : Nat) (c : Char) : Option Nat :=
  let v : Nat :=
    if '0' ≤ c ∧ c ≤ '9' then c.toNat - 48 else if 'a' ≤ c ∧ c ≤ 'f' then c.toNat - 87 else 16
  if v < base then some v else none

/-- The value of a string of digits, from the value read so far. -/
def digitsValue (base : Nat) : Nat → List Char → Option Nat
  | acc, [] => some acc
  | acc, c :: cs =>
    match digitValue base c with
    | some v => digitsValue base (acc * base + v) cs
    | none => none

/-- A number, decimal or `0x` hexadecimal (R71). -/
def readNumber : List Char → Option Nat
  | [] => none
  | ['0', 'x'] => none
  | '0' :: 'x' :: ds => digitsValue 16 0 ds
  | ds => digitsValue 10 0 ds

/-- The register names of R30, in lower case. -/
def readRegName (cs : List Char) : Option RegName :=
  if cs = "status".toList then some .status
  else if cs = "crc7".toList then some .crc7
  else if cs = "crc7t".toList then some .crc7t
  else if cs = "crc16".toList then some .crc16
  else if cs = "rxcrc".toList then some .rxcrc
  else if cs = "drt".toList then some .drt
  else if cs = "rdata".toList then some .rdata
  else none

/-- The line of a mnemonic and its numbers (R71, R72); none where the mnemonic or the count of operands is not one of
the syntax. -/
def lineOf (m : List Char) (ops : List Nat) : Option AsmLine :=
  match ops with
  | [] =>
    if m = "crc7.init".toList then some .crc7Init
    else if m = "crc16.init".toList then some .crc16Init
    else if m = "stat.clr".toList then some .statClr
    else if m = "wait".toList then some .wait
    else none
  | [a] =>
    if m = "crc7.upd".toList then some (.crc7Upd a)
    else if m = "crc7.buf".toList then some (.crc7Buf a)
    else if m = "crc16.upd".toList then some (.crc16Upd a)
    else if m = "crc16.buf".toList then some (.crc16Buf a)
    else if m = "buf.rd".toList then some (.bufRd a)
    else if m = "blk.send".toList then some (.blkSend a)
    else if m = "blk.recv".toList then some (.blkRecv a)
    else if m = ".cmd".toList then some (.cmd a)
    else if m = "rd".toList then some (.rd a)
    else if m = "crc16.bytes".toList then some (.crc16Bytes [a])
    else none
  | a :: b :: rest =>
    if m = "crc16.bytes".toList then some (.crc16Bytes (a :: b :: rest))
    else if m = "buf.fill".toList then some (.bufFill a (b :: rest))
    else if m = "buf.wr".toList ∧ rest = [] then some (.bufWr a b)
    else if m = "crc7.frame".toList then
      match rest with
      | [c, d, e] => some (.crc7Frame a b c d e)
      | _ => none
    else none

/-- Reading one line: a mnemonic, blanks, and operands between commas. R71 makes the mnemonics case-insensitive and says
nothing of the case of register names, of the `0x` prefix and of hexadecimal digits: here the whole line is read without
regard to case (DESIGN CHOICE, log 19). -/
def readLine (line : List Char) : Option AsmLine :=
  let cs := trimBlanks (line.map Char.toLower)
  let m := cs.takeWhile fun c => !isBlank c
  let rest := trimBlanks (cs.dropWhile fun c => !isBlank c)
  match (if m = "rd".toList then readRegName rest else none) with
  | some r => some (.rdName r)
  | none =>
    if rest.isEmpty then lineOf m []
    else
      match (splitCommas rest).mapM fun p => readNumber (trimBlanks p) with
      | some ops => lineOf m ops
      | none => none

/-- The host accesses of a text of lines; none where a line cannot be read or is refused. -/
def assembleText : List String → Option (List Input)
  | [] => some []
  | l :: ls =>
    match readLine l.toList, assembleText ls with
    | some a, some rest =>
      match assemble a with
      | some is => some (is ++ rest)
      | none => none
    | _, _ => none

end Sys2Proof.Machine
end

