-- ==== Sys2Proof/Safety.lean ====
section
/-! DEFINITION. What holds of every state a run can be in (10_state.md R22 to R28; 42_block_framer.md R134 to R147), the
exchanges a command may still make (R160), and the host's reading of STATUS (41_buffer_status.md R114). -/

namespace Sys2Proof.Machine

/-- The position of the sequencer (R28, R130): what IDX and CNT are in each phase. -/
def State.positionOk (s : State) : Prop :=
  match s.phase with
  | .idle => True
  | .rxStart => s.idx = 0#10 ∧ s.cnt < s.limits.nStart
  | .rxData => s.idx.toNat < s.len.toNat
  | .rxCrcHi => s.idx = s.len
  | .rxCrcLo => s.idx = s.len
  | .txStart => s.idx = 0#10 ∧ s.cnt = 0
  | .txData => s.idx.toNat < s.len.toNat ∧ s.cnt = 0
  | .txCrcHi => s.idx = s.len ∧ s.cnt = 0
  | .txCrcLo => s.idx = s.len ∧ s.cnt = 0
  | .txToken => s.idx = s.len ∧ s.cnt < s.limits.nToken
  | .txBusy => s.idx = s.len ∧ s.cnt < s.limits.nBusy

/-- The checksums, the token and VALID while a block command runs (R134 to R138, R141, R146): C16 is the CRC-16 of the
payload so far received, or of the payload being sent. -/
def State.checksumOk (s : State) : Prop :=
  match s.phase with
  | .idle => True
  | .rxStart => s.valid = false ∧ s.c16 = 0x0000#16 ∧ s.rxcrc = 0x0000#16
  | .rxData =>
    s.valid = false ∧ s.c16 = crc16 (s.bufBytes s.idx.toNat) ∧ s.bufWritten s.idx.toNat = true ∧ s.rxcrc = 0x0000#16
  | .rxCrcHi =>
    s.valid = false ∧ s.c16 = crc16 (s.bufBytes s.idx.toNat) ∧ s.bufWritten s.idx.toNat = true ∧ s.rxcrc = 0x0000#16
  | .rxCrcLo =>
    s.valid = false ∧ s.c16 = crc16 (s.bufBytes s.idx.toNat) ∧ s.bufWritten s.idx.toNat = true ∧ crcLo s.rxcrc = 0x00#8
  | .txStart => s.c16 = crc16 (s.bufBytes s.len.toNat) ∧ s.drt = 0xFF#8
  | .txData => s.c16 = crc16 (s.bufBytes s.len.toNat) ∧ s.drt = 0xFF#8
  | .txCrcHi => s.c16 = crc16 (s.bufBytes s.len.toNat) ∧ s.drt = 0xFF#8
  | .txCrcLo => s.c16 = crc16 (s.bufBytes s.len.toNat) ∧ s.drt = 0xFF#8
  | .txToken => s.c16 = crc16 (s.bufBytes s.len.toNat) ∧ s.drt = 0xFF#8
  | .txBusy => s.c16 = crc16 (s.bufBytes s.len.toNat) ∧ s.drt ≠ 0xFF#8

/-- The invariant of the machine. -/
structure State.Inv (s : State) : Prop where
  /-- BUF is in its canonical form (R22). -/
  bufCanonical : s.buf.wf = true
  /-- Each poll limit is at least 1 (R7). -/
  limitsPositive : 1 ≤ s.limits.nStart ∧ 1 ≤ s.limits.nToken ∧ 1 ≤ s.limits.nBusy
  /-- LEN is 1 to 512 while PHASE ≠ IDLE (R28). -/
  lenInRange : s.phase ≠ .idle → 1 ≤ s.len.toNat ∧ s.len.toNat ≤ blockMax
  /-- IDX is 0 to 512 (R28). -/
  idxInRange : s.idx.toNat ≤ blockMax
  /-- CNT is 0 to the greatest of the limits (R28). -/
  cntInRange : s.cnt ≤ max s.limits.nStart (max s.limits.nToken s.limits.nBusy)
  position : s.positionOk
  checksum : s.checksumOk
  /-- VALID = 1 only while BUF holds a whole payload whose CRC-16 is the one received with it (R26, R114, R162). -/
  validChecked : s.valid = true →
    ∃ n : Nat, 1 ≤ n ∧ n ≤ blockMax ∧ s.bufWritten n = true ∧ crc16 (s.bufBytes n) = s.rxcrc

/-- The most exchanges the command in progress may still make (R160). -/
def State.exchangesLeft (s : State) : Nat :=
  match s.phase with
  | .idle => 0
  | .rxStart => (s.limits.nStart - s.cnt) + s.len.toNat + 2
  | .rxData => (s.len.toNat - s.idx.toNat) + 2
  | .rxCrcHi => 2
  | .rxCrcLo => 1
  | .txStart => 3 + s.len.toNat + s.limits.nToken + s.limits.nBusy
  | .txData => (s.len.toNat - s.idx.toNat) + 2 + s.limits.nToken + s.limits.nBusy
  | .txCrcHi => 2 + s.limits.nToken + s.limits.nBusy
  | .txCrcLo => 1 + s.limits.nToken + s.limits.nBusy
  | .txToken => (s.limits.nToken - s.cnt) + s.limits.nBusy
  | .txBusy => s.limits.nBusy - s.cnt

/-- Whether an event is an exchange on the wire. -/
def Event.isExchange : Event → Bool
  | .exchange _ _ => true
  | .hostRead _ _ => false

/-- The number of exchanges made so far (R52). -/
def State.exchanges (s : State) : Nat := s.trace.countP Event.isExchange

/-- The bytes the block transmitted in a list of events, in order (R52). -/
def transmitted : List Event → List Byte
  | [] => []
  | .exchange t _ :: es => t :: transmitted es
  | .hostRead _ _ :: es => transmitted es

/-- R114: what a host must read in STATUS before it surfaces a payload: BUSY = 0, VALID = 1 and RESULT = 0. -/
def maySurface (status : Word) : Bool :=
  !status.getLsbD 0 && status.getLsbD 1 && decide (status.extractLsb' 4 3 = 0#3)

/-- R174: how a host that reports success or failure only reads STATUS after a command: RESULT = 0, and VALID = 1 too
after a receive. -/
def commandSucceeded (receive : Bool) (status : Word) : Bool :=
  decide (status.extractLsb' 4 3 = 0#3) && (!receive || status.getLsbD 1)

end Sys2Proof.Machine
end

