-- ==== Sys2Proof/WellFormed.lean ====
section
/-! DEFINITION. Well-formed commands: those whose LEN is in the legal range of 30_encoding.md R67. The widths of R60
are carried by the fields' types, so no other check is left. A command that is not well formed still has a legal word
and a meaning: it completes with RANGE. -/

namespace Sys2Proof

/-- R67's table of legal lengths, written out apart from the machine's own range check (Machine/Operands.lean). -/
def Instr.wellFormed : Instr → Bool
  | .crc7Init => true
  | .crc7Update _ => true
  | .crc7Buf len => decide (len.toNat ≤ 512)
  | .crc16Init => true
  | .crc16Update _ => true
  | .crc16Buf len => decide (len.toNat ≤ 512)
  | .bufWrite _ _ => true
  | .bufRead _ => true
  | .sendBlock len => decide (1 ≤ len.toNat) && decide (len.toNat ≤ 512)
  | .receiveBlock len => decide (1 ≤ len.toNat) && decide (len.toNat ≤ 512)
  | .clrStatus => true

end Sys2Proof
end

