-- ==== Sys2Proof/Certificates/Slice0/Obligations.lean ====
section
/-! DEFINITION. The statements for the provers. Each docstring names the rule of spec/ it formalises, or says which
choice of the model it rests on. -/

open Sys2Proof Sys2Proof.Machine

/-! ## Words the statements share -/

/-- The rows of 30_encoding.md R66: (OP, MATCH, MASK). -/
def Sys2Proof.Spec.rows : List (BitVec 4 × Word × Word) :=
  [(0x1#4, 0x10000000#32, 0xFFFFFFFF#32), (0x2#4, 0x20000000#32, 0xFFFFFF00#32),
   (0x3#4, 0x30000000#32, 0xF003FFFF#32), (0x4#4, 0x40000000#32, 0xFFFFFFFF#32),
   (0x5#4, 0x50000000#32, 0xFFFFFF00#32), (0x6#4, 0x60000000#32, 0xF003FFFF#32),
   (0x7#4, 0x70000000#32, 0xFFFC0100#32), (0x8#4, 0x80000000#32, 0xFFFC01FF#32),
   (0x9#4, 0x90000000#32, 0xF003FFFF#32), (0xA#4, 0xA0000000#32, 0xF003FFFF#32),
   (0xB#4, 0xB0000000#32, 0xFFFFFFFF#32)]

/-- R65: the word's opcode is a row's, and the word satisfies that row's MASK and MATCH. -/
def Sys2Proof.Spec.legal (w : Word) : Prop :=
  ∃ r ∈ Sys2Proof.Spec.rows, w.extractLsb' 28 4 = r.1 ∧ w &&& r.2.2 = r.2.1

/-- R64 for one command: written while BUSY = 1 it sets OVERRUN and changes nothing else. -/
def Sys2Proof.Spec.DroppedWhileBusy (i : Instr) : Prop :=
  ∀ s : State, s.busy = true → exec i s = .next { s with overrun := true }

/-- R65 for one row: a word of its opcode that misses MATCH, written while BUSY = 0, records ILLEGAL and changes nothing
else. -/
def Sys2Proof.Spec.StrayBitsIllegal (op : BitVec 4) (mtch mask : Word) : Prop :=
  ∀ (s : State) (w : Word) (rest : List Input), s.busy = false → s.inputs = .hostWrite 0#4 w :: rest →
    w.extractLsb' 28 4 = op → w &&& mask ≠ mtch → step s = .next { s with inputs := rest, result := .illegal }

/-- The next event is a reset. -/
def Sys2Proof.Spec.resets (s : State) : Prop := ∃ rest, s.inputs = .reset :: rest

/-- The next event is the write of command `i`, and the block is idle. -/
def Sys2Proof.Spec.issues (s : State) (i : Instr) : Prop :=
  s.busy = false ∧ ∃ w rest, s.inputs = .hostWrite 0#4 w :: rest ∧ decode w = .ok i

/-- The next event is the block's own step in phase `p`. -/
def Sys2Proof.Spec.blockTurn (s : State) (p : Phase) : Prop :=
  s.phase = p ∧ (s.inputs = [] ∨ ∃ rest, s.inputs = .blockStep :: rest)

/-- The bytes received in a list of events, in order. -/
def Sys2Proof.Spec.received : List Event → List Byte
  | [] => []
  | .exchange _ (.ok r) :: es => r :: Sys2Proof.Spec.received es
  | .exchange _ .unavail :: es => Sys2Proof.Spec.received es
  | .hostRead _ _ :: es => Sys2Proof.Spec.received es

/-- The polynomial over GF(2) of a bit vector, bit `i` the coefficient of x^i (R83, R88). -/
noncomputable def Sys2Proof.Spec.bitsPoly {w : Nat} (c : BitVec w) : Polynomial (ZMod 2) :=
  ∑ i ∈ Finset.range w, (if c.getLsbD i then Polynomial.X ^ i else 0)

/-- M(x) of a byte string: its bits in transmission order, the first the highest power (R83). -/
noncomputable def Sys2Proof.Spec.messagePoly : List Byte → Polynomial (ZMod 2)
  | [] => 0
  | d :: ds => Sys2Proof.Spec.bitsPoly d * Polynomial.X ^ (8 * ds.length) + Sys2Proof.Spec.messagePoly ds

/-! ## Encoding and decoding -/

/-- 30_encoding.md R60, R61, R66: the word of a command, at every value of its fields, decodes to that command. -/
def Obligations.DecodeOfEncodeIsTheCommand : Prop := ∀ i : Instr, decode (encode i) = .ok i

/-- R61, R65: a word that decodes is the word of the command it decodes to; no bit of it is passed over. -/
def Obligations.EncodeOfDecodedWordIsTheWord : Prop := ∀ (w : Word) (i : Instr), decode w = .ok i → encode i = w

/-- R69 (derived there): decode is total, a word is legal exactly when a row matches, and no two rows match one word. -/
def Obligations.LegalWordsMatchExactlyOneRow : Prop :=
  (∀ w : Word, (∃ i, decode w = .ok i) ↔ Sys2Proof.Spec.legal w) ∧
  (∀ w : Word, ∀ r ∈ Sys2Proof.Spec.rows, ∀ r' ∈ Sys2Proof.Spec.rows,
    w &&& r.2.2 = r.2.1 → w &&& r'.2.2 = r'.2.1 → r = r')

/-- R73 and 95_test_vectors.md 2.4: words written out from R60, legal and illegal. -/
def Obligations.SampleWordsDecode : Prop :=
  decode 0x10000000#32 = .ok .crc7Init ∧ decode 0x20000040#32 = .ok (.crc7Update 0x40#8) ∧
  decode 0x30140000#32 = .ok (.crc7Buf 5#10) ∧ decode 0x68000000#32 = .ok (.crc16Buf 512#10) ∧
  decode 0x700006AA#32 = .ok (.bufWrite 3#9 0xAA#8) ∧ decode 0x8003FE00#32 = .ok (.bufRead 511#9) ∧
  decode 0x98000000#32 = .ok (.sendBlock 512#10) ∧ decode 0xA0400000#32 = .ok (.receiveBlock 16#10) ∧
  decode 0xA0000000#32 = .ok (.receiveBlock 0#10) ∧ decode 0xB0000000#32 = .ok .clrStatus ∧
  (∀ i, decode 0x20000140#32 ≠ .ok i) ∧ (∀ i, decode 0x10000001#32 ≠ .ok i) ∧
  (∀ i, decode 0x00000000#32 ≠ .ok i) ∧ (∀ i, decode 0xC0000000#32 ≠ .ok i) ∧ (∀ i, decode 0x9000000F#32 ≠ .ok i)

/-- R71: the command word of each assembler line, by the formulas of its table. -/
def Obligations.AssemblerWordsAreTheTablesFormulas : Prop :=
  encode .crc7Init = 0x10000000#32 ∧
  (∀ d : BitVec 8, encode (.crc7Update d) = 0x20000000#32 ||| d.setWidth 32) ∧
  (∀ n : BitVec 10, encode (.crc7Buf n) = 0x30000000#32 ||| (n.setWidth 32 <<< 18)) ∧
  encode .crc16Init = 0x40000000#32 ∧
  (∀ d : BitVec 8, encode (.crc16Update d) = 0x50000000#32 ||| d.setWidth 32) ∧
  (∀ n : BitVec 10, encode (.crc16Buf n) = 0x60000000#32 ||| (n.setWidth 32 <<< 18)) ∧
  (∀ (i : BitVec 9) (d : BitVec 8),
    encode (.bufWrite i d) = 0x70000000#32 ||| (i.setWidth 32 <<< 9) ||| d.setWidth 32) ∧
  (∀ i : BitVec 9, encode (.bufRead i) = 0x80000000#32 ||| (i.setWidth 32 <<< 9)) ∧
  (∀ n : BitVec 10, encode (.sendBlock n) = 0x90000000#32 ||| (n.setWidth 32 <<< 18)) ∧
  (∀ n : BitVec 10, encode (.receiveBlock n) = 0xA0000000#32 ||| (n.setWidth 32 <<< 18)) ∧
  encode .clrStatus = 0xB0000000#32

/-! ## The command port -/

/-- 10_state.md R29, 30_encoding.md R63: when the next event writes a legal word to register 0, the step is the meaning
of the command it decodes to, at the state without that event. That the event stands in a list is the model's choice
(log 1, log 15). -/
def Obligations.StepRunsTheDecodedCommand : Prop :=
  ∀ (s : State) (w : Word) (i : Instr) (rest : List Input),
    s.inputs = .hostWrite 0#4 w :: rest → decode w = .ok i → step s = exec i { s with inputs := rest }

/-- R64: any word written while BUSY = 1, legal or not, sets OVERRUN and changes nothing else; and OVERRUN falls only by
a CLR_STATUS carried out or by reset. -/
def Obligations.BusyBlockDropsEveryWord : Prop :=
  (∀ (s : State) (w : Word) (rest : List Input), s.inputs = .hostWrite 0#4 w :: rest → s.busy = true →
    step s = .next { s with inputs := rest, overrun := true }) ∧
  (∀ s t : State, step s = .next t → s.overrun = true → t.overrun = false →
    Sys2Proof.Spec.issues s .clrStatus ∨ Sys2Proof.Spec.resets s)

/-- R63, R65 and R67: the order of decision at the port: dropped, ILLEGAL (which records the code and changes nothing
else), RANGE (with VALID cleared for RECEIVE_BLOCK and no
exchange), the operation. R67's table of lengths is `Instr.wellFormed`, written out here again. -/
def Obligations.PortDecidesInOrder : Prop :=
  (∀ (s : State) (w : Word) (rest : List Input), s.inputs = .hostWrite 0#4 w :: rest →
    (s.busy = true → step s = .next { s with inputs := rest, overrun := true }) ∧
    (s.busy = false → ¬ Sys2Proof.Spec.legal w → step s = .next { s with inputs := rest, result := .illegal }) ∧
    (∀ i, s.busy = false → decode w = .ok i → i.wellFormed = false →
      step s = .next { s with
        inputs := rest
        result := .range
        valid := match i with | .receiveBlock _ => false | _ => s.valid }) ∧
    (∀ i, s.busy = false → decode w = .ok i → i.wellFormed = true → step s = exec i { s with inputs := rest })) ∧
  (∀ n : BitVec 10,
    ((Instr.crc7Buf n).wellFormed = true ↔ n.toNat ≤ 512) ∧ ((Instr.crc16Buf n).wellFormed = true ↔ n.toNat ≤ 512) ∧
    ((Instr.sendBlock n).wellFormed = true ↔ 1 ≤ n.toNat ∧ n.toNat ≤ 512) ∧
    ((Instr.receiveBlock n).wellFormed = true ↔ 1 ≤ n.toNat ∧ n.toNat ≤ 512))

/-! ## The commands: what each does where it executes, where it is dropped, and the words it refuses -/

/-- 40_crc.md R90, with its example. -/
def Obligations.Crc7InitResetsTheGenerator : Prop :=
  encode .crc7Init = 0x10000000#32 ∧
  (∀ s : State, s.busy = false → exec .crc7Init s = .next { s with c7 := 0x00#7, result := .ok }) ∧
  (∀ s : State, s.c7 = 0x00#7 → s.readReg 1#4 = 0x00000000#32 ∧ s.readReg 2#4 = 0x00000001#32) ∧
  Sys2Proof.Spec.DroppedWhileBusy .crc7Init ∧
  Sys2Proof.Spec.StrayBitsIllegal 0x1#4 0x10000000#32 0xFFFFFFFF#32

/-- 40_crc.md R91, with its corner cases and example. -/
def Obligations.Crc7UpdateFeedsOneByte : Prop :=
  (∀ (d : BitVec 8) (s : State), s.busy = false →
    exec (.crc7Update d) s = .next { s with c7 := crc7Byte s.c7 d, result := .ok }) ∧
  (∀ d, Sys2Proof.Spec.DroppedWhileBusy (.crc7Update d)) ∧
  (∀ d : BitVec 8, encode (.crc7Update d) &&& 0xFFFFFF00#32 = 0x20000000#32) ∧
  Sys2Proof.Spec.StrayBitsIllegal 0x2#4 0x20000000#32 0xFFFFFF00#32 ∧
  crc7Byte 0x00#7 0x00#8 = 0x00#7 ∧ crc7Byte 0x00#7 0x80#8 = 0x41#7 ∧ crc7Byte 0x7F#7 0xFF#8 = 0x09#7 ∧
  crc7Byte 0x00#7 0x40#8 = 0x64#7 ∧
  (∀ a b c d e : Byte,
    crc7Byte (crc7Byte (crc7Byte (crc7Byte (crc7Byte 0x00#7 a) b) c) d) e = crc7 [a, b, c, d, e])

/-- 40_crc.md R92, with its example: from CRC7_INIT over `BUF[0..LEN)`; RANGE above 512 leaves C7. -/
def Obligations.Crc7BufSumsTheBuffer : Prop :=
  (∀ (n : BitVec 10) (s : State), s.busy = false → n.toNat ≤ 512 →
    exec (.crc7Buf n) s = .next { s with c7 := crc7 (s.bufBytes n.toNat), result := .ok }) ∧
  (∀ (n : BitVec 10) (s : State), s.busy = false → 512 < n.toNat →
    exec (.crc7Buf n) s = .next { s with result := .range }) ∧
  (∀ n, Sys2Proof.Spec.DroppedWhileBusy (.crc7Buf n)) ∧
  (∀ n : BitVec 10, encode (.crc7Buf n) &&& 0xF003FFFF#32 = 0x30000000#32) ∧
  Sys2Proof.Spec.StrayBitsIllegal 0x3#4 0x30000000#32 0xF003FFFF#32 ∧
  crc7 [] = 0x00#7 ∧ crc7 [0x48#8, 0x00#8, 0x00#8, 0x01#8, 0xAA#8] = 0x43#7 ∧ trailer 0x43#7 = 0x87#8

/-- 40_crc.md R93, with its example. -/
def Obligations.Crc16InitResetsTheGenerator : Prop :=
  encode .crc16Init = 0x40000000#32 ∧
  (∀ s : State, s.busy = false → exec .crc16Init s = .next { s with c16 := 0x0000#16, result := .ok }) ∧
  (∀ s : State, s.c16 = 0x0000#16 → s.readReg 3#4 = 0x00000000#32) ∧
  Sys2Proof.Spec.DroppedWhileBusy .crc16Init ∧
  Sys2Proof.Spec.StrayBitsIllegal 0x4#4 0x40000000#32 0xFFFFFFFF#32

/-- 40_crc.md R94, with its corner cases and example. -/
def Obligations.Crc16UpdateFeedsOneByte : Prop :=
  (∀ (d : BitVec 8) (s : State), s.busy = false →
    exec (.crc16Update d) s = .next { s with c16 := crc16Byte s.c16 d, result := .ok }) ∧
  (∀ d, Sys2Proof.Spec.DroppedWhileBusy (.crc16Update d)) ∧
  (∀ d : BitVec 8, encode (.crc16Update d) &&& 0xFFFFFF00#32 = 0x50000000#32) ∧
  Sys2Proof.Spec.StrayBitsIllegal 0x5#4 0x50000000#32 0xFFFFFF00#32 ∧
  crc16Byte 0x0000#16 0x00#8 = 0x0000#16 ∧ crc16Byte 0x0000#16 0x01#8 = 0x1021#16 ∧
  crc16Byte 0xFFFF#16 0xFF#8 = 0xFF00#16 ∧ crc16Byte 0x0000#16 0x12#8 = 0x3273#16 ∧
  crc16Byte 0x3273#16 0x34#8 = 0x13C6#16

/-- 40_crc.md R95, with its example: from CRC16_INIT over `BUF[0..LEN)`; RANGE above 512 leaves C16; and over a payload whose
CRC-16 is RXCRC, as a receive that ends OK leaves it, C16 is RXCRC again (R95 itself marks that clause derived from R138). -/
def Obligations.Crc16BufSumsTheBuffer : Prop :=
  (∀ (n : BitVec 10) (s : State), s.busy = false → n.toNat ≤ 512 →
    exec (.crc16Buf n) s = .next { s with c16 := crc16 (s.bufBytes n.toNat), result := .ok }) ∧
  (∀ (n : BitVec 10) (s : State), s.busy = false → 512 < n.toNat →
    exec (.crc16Buf n) s = .next { s with result := .range }) ∧
  (∀ n, Sys2Proof.Spec.DroppedWhileBusy (.crc16Buf n)) ∧
  (∀ n : BitVec 10, encode (.crc16Buf n) &&& 0xF003FFFF#32 = 0x60000000#32) ∧
  Sys2Proof.Spec.StrayBitsIllegal 0x6#4 0x60000000#32 0xF003FFFF#32 ∧
  (∀ (n : BitVec 10) (s : State), s.busy = false → n.toNat ≤ 512 → crc16 (s.bufBytes n.toNat) = s.rxcrc →
    ∃ t, exec (.crc16Buf n) s = .next t ∧ t.c16 = s.rxcrc ∧ t.rxcrc = s.rxcrc) ∧
  crc16 [] = 0x0000#16 ∧ crc16 (List.replicate 512 0xFF#8) = 0x7FA1#16

/-- 41_buffer_status.md R111: the byte at IDX becomes DATA, every other byte of BUF reads as before, VALID is cleared, and
nothing else but RESULT changes; every IDX executes. -/
def Obligations.BufWriteStoresOneByte : Prop :=
  (∀ (i : BitVec 9) (d : BitVec 8) (s : State), s.busy = false →
    ∃ t, exec (.bufWrite i d) s = .next t ∧ t = { s with buf := t.buf, valid := false, result := .ok } ∧
      t.bufByte i.toNat = d ∧ ∀ a : Nat, a ≠ i.toNat → t.bufByte a = s.bufByte a) ∧
  (∀ i d, Sys2Proof.Spec.DroppedWhileBusy (.bufWrite i d)) ∧
  (∀ (i : BitVec 9) (d : BitVec 8), encode (.bufWrite i d) &&& 0xFFFC0100#32 = 0x70000000#32) ∧
  encode (.bufWrite 3#9 0xAA#8) = 0x700006AA#32 ∧
  Sys2Proof.Spec.StrayBitsIllegal 0x7#4 0x70000000#32 0xFFFC0100#32

/-- 41_buffer_status.md R113: RDATA takes the byte at IDX, whatever VALID is; nothing else but RESULT changes. That a
byte nothing wrote since reset reads as a free value of the draw and the index is the model's form (R38, log 3). -/
def Obligations.BufReadCopiesOneByte : Prop :=
  (∀ (i : BitVec 9) (s : State), s.busy = false →
    exec (.bufRead i) s = .next { s with rdata := s.bufByte i.toNat, result := .ok }) ∧
  (∀ s : State, s.busy = false → s.bufByte 511 = 0x5A#8 →
    ∃ t, exec (.bufRead 511#9) s = .next t ∧ t.readReg 6#4 = 0x0000005A#32) ∧
  (∀ (i : BitVec 9) (s : State), s.buf.read? i.toNat = none →
    s.bufByte i.toNat = Config.bufAtReset s.bufDraw i.toNat) ∧
  (∀ i, Sys2Proof.Spec.DroppedWhileBusy (.bufRead i)) ∧
  (∀ i : BitVec 9, encode (.bufRead i) &&& 0xFFFC01FF#32 = 0x80000000#32) ∧
  encode (.bufRead 511#9) = 0x8003FE00#32 ∧
  Sys2Proof.Spec.StrayBitsIllegal 0x8#4 0x80000000#32 0xFFFC01FF#32

/-- 41_buffer_status.md R117, with its example. -/
def Obligations.ClrStatusClearsOverrun : Prop :=
  encode .clrStatus = 0xB0000000#32 ∧
  (∀ s : State, s.busy = false → exec .clrStatus s = .next { s with overrun := false, result := .ok }) ∧
  (∀ s : State, s.statusWord = 0x00000024#32 → ∃ t, exec .clrStatus s = .next t ∧ t.statusWord = 0x00000000#32) ∧
  Sys2Proof.Spec.DroppedWhileBusy .clrStatus ∧
  Sys2Proof.Spec.StrayBitsIllegal 0xB#4 0xB0000000#32 0xFFFFFFFF#32

/-- 42_block_framer.md R141: the issue step of SEND_BLOCK. That LEN is latched is read from R28 (log 5). -/
def Obligations.SendBlockIssues : Prop :=
  (∀ (n : BitVec 10) (s : State), s.busy = false → 1 ≤ n.toNat → n.toNat ≤ 512 →
    exec (.sendBlock n) s = .next { s with
      c16 := crc16 (s.bufBytes n.toNat), drt := 0xFF#8, len := n, idx := 0#10, cnt := 0, phase := .txStart }) ∧
  (∀ (n : BitVec 10) (s : State), s.busy = false → n.toNat = 0 ∨ 512 < n.toNat →
    exec (.sendBlock n) s = .next { s with result := .range }) ∧
  (∀ n, Sys2Proof.Spec.DroppedWhileBusy (.sendBlock n)) ∧
  Sys2Proof.Spec.StrayBitsIllegal 0x9#4 0x90000000#32 0xF003FFFF#32

/-- 42_block_framer.md R134: the issue step of RECEIVE_BLOCK; a rejected one clears VALID too. -/
def Obligations.ReceiveBlockIssues : Prop :=
  (∀ (n : BitVec 10) (s : State), s.busy = false → 1 ≤ n.toNat → n.toNat ≤ 512 →
    exec (.receiveBlock n) s = .next { s with
      valid := false, c16 := 0x0000#16, rxcrc := 0x0000#16, len := n, idx := 0#10, cnt := 0, phase := .rxStart }) ∧
  (∀ (n : BitVec 10) (s : State), s.busy = false → n.toNat = 0 ∨ 512 < n.toNat →
    exec (.receiveBlock n) s = .next { s with valid := false, result := .range }) ∧
  (∀ n, Sys2Proof.Spec.DroppedWhileBusy (.receiveBlock n)) ∧
  Sys2Proof.Spec.StrayBitsIllegal 0xA#4 0xA0000000#32 0xF003FFFF#32

/-! ## The sequencer: one step of a block command. The inputs being used up, the step is the block's own. Chip-select is
asserted, as R198 requires of the host before the first exchange (that its level is held in State is log 12). -/

/-- R128: while BUSY = 1 the block's step makes exactly one exchange. With chip-select deasserted the run is refused (R198,
D16), whatever the state. The rest is the model's: that the outcome is the first of the list `card` is log 2 (DESIGN CHOICE);
that a step of the idle block with no event answers the same state is log 9 (DEDUCED, from R128 and R185); that a turn given
to the block in the list of inputs is the same step, and takes that event alone from the list, is log 1 (DESIGN CHOICE); the
chip-select level is log 12 (DESIGN CHOICE). -/
def Obligations.BlockStepMakesOneExchange : Prop :=
  (∀ s : State, s.Inv → s.busy = true → s.selected = true → s.inputs = [] →
    ∃ t, step s = .next t ∧ t.trace = s.trace ++ [.exchange (txByte s) s.reply] ∧ t.card = s.card.tail) ∧
  (∀ (s : State) (o : XferResult) (rest : List XferResult), s.card = o :: rest → s.reply = o) ∧
  (∀ s : State, s.busy = false → s.inputs = [] → step s = .next s) ∧
  (∀ s : State, s.busy = true → s.selected = false → s.inputs = [] → step s = .refused .chipSelectNotAsserted) ∧
  (∀ (s : State) (rest : List Input), s.inputs = .blockStep :: rest →
    (∀ t, step { s with inputs := [] } = .next t → step s = .next { t with inputs := rest }) ∧
    ((∀ t, step { s with inputs := [] } ≠ .next t) → step s = step { s with inputs := [] }))

/-- R129: in every phase an exchange that answers Unavail ends the command with BUS_UNAVAILABLE and does nothing else
(chip-select asserted: R198, log 12). -/
def Obligations.UnavailableEndsTheCommand : Prop :=
  ∀ s : State, s.Inv → s.busy = true → s.selected = true → s.inputs = [] → s.reply = .unavail →
    step s = .next { afterXfer (txByte s) s with result := .busUnavailable, phase := .idle }

/-- R135: the start-token poll, chip-select asserted (R198, log 12). CNT is the number of exchanges the poll has spent, and
stays below N_START in it. -/
def Obligations.StartTokenPollStep : Prop :=
  ∀ (s : State) (r : Byte), s.phase = .rxStart → s.selected = true → s.inputs = [] → s.reply = .ok r →
    (r = 0xFE#8 → step s = .next { afterXfer 0xFF#8 s with phase := .rxData, cnt := s.cnt + 1 }) ∧
    (r ≠ 0xFE#8 → s.cnt + 1 = s.limits.nStart →
      step s = .next { afterXfer 0xFF#8 s with cnt := s.cnt + 1, result := .timeout, phase := .idle }) ∧
    (r ≠ 0xFE#8 → s.cnt + 1 ≠ s.limits.nStart → step s = .next { afterXfer 0xFF#8 s with cnt := s.cnt + 1 }) ∧
    (s.Inv → s.cnt < s.limits.nStart)

/-- R136: one payload byte received, chip-select asserted (R198, log 12). -/
def Obligations.PayloadByteReceivedStep : Prop :=
  ∀ (s : State) (r : Byte), s.phase = .rxData → s.idx.toNat < 512 → s.selected = true → s.inputs = [] → s.reply = .ok r →
    ∃ t, step s = .next t ∧
      t = { afterXfer 0xFF#8 s with
        buf := t.buf
        c16 := crc16Byte s.c16 r
        idx := s.idx + 1#10
        phase := if s.idx.toNat + 1 = s.len.toNat then .rxCrcHi else .rxData } ∧
      t.idx.toNat = s.idx.toNat + 1 ∧ t.bufByte s.idx.toNat = r ∧
      ∀ a : Nat, a ≠ s.idx.toNat → t.bufByte a = s.bufByte a

/-- R137, R138: the two CRC bytes and the check, chip-select asserted (R198, log 12). At the second, C16 is the CRC-16 of the payload in BUF: R138 itself marks that
sentence derived from R134 and R136, and here it rests on the invariant. -/
def Obligations.ReceivedCrcIsChecked : Prop :=
  (∀ (s : State) (r : Byte), s.phase = .rxCrcHi → s.selected = true → s.inputs = [] → s.reply = .ok r →
    step s = .next { afterXfer 0xFF#8 s with rxcrc := r ++ 0x00#8, phase := .rxCrcLo }) ∧
  (∀ (s : State) (r : Byte), s.phase = .rxCrcLo → s.selected = true → s.inputs = [] → s.reply = .ok r →
    (s.c16 = s.rxcrc.extractLsb' 8 8 ++ r →
      step s = .next { afterXfer 0xFF#8 s with
        rxcrc := s.rxcrc.extractLsb' 8 8 ++ r, valid := true, result := .ok, phase := .idle }) ∧
    (s.c16 ≠ s.rxcrc.extractLsb' 8 8 ++ r →
      step s = .next { afterXfer 0xFF#8 s with
        rxcrc := s.rxcrc.extractLsb' 8 8 ++ r, result := .crcMismatch, phase := .idle }) ∧
    (s.Inv → s.valid = false ∧ s.c16 = crc16 (s.bufBytes s.len.toNat)))

/-- R142, R143: the start token and the payload bytes sent, chip-select asserted (R198, log 12); the received bytes are
discarded. -/
def Obligations.StartTokenAndPayloadSent : Prop :=
  (∀ (s : State) (r : Byte), s.phase = .txStart → s.selected = true → s.inputs = [] → s.reply = .ok r →
    step s = .next { afterXfer 0xFE#8 s with phase := .txData }) ∧
  (∀ (s : State) (r : Byte), s.phase = .txData → s.idx.toNat < 512 → s.selected = true → s.inputs = [] → s.reply = .ok r →
    step s = .next { afterXfer (s.bufByte s.idx.toNat) s with
      idx := s.idx + 1#10, phase := if s.idx.toNat + 1 = s.len.toNat then .txCrcHi else .txData } ∧
    (s.idx + 1#10).toNat = s.idx.toNat + 1)

/-- R144, R145: the two CRC bytes sent, the more significant first, chip-select asserted (R198, log 12). -/
def Obligations.CrcBytesSent : Prop :=
  (∀ (s : State) (r : Byte), s.phase = .txCrcHi → s.selected = true → s.inputs = [] → s.reply = .ok r →
    step s = .next { afterXfer (s.c16.extractLsb' 8 8) s with phase := .txCrcLo }) ∧
  (∀ (s : State) (r : Byte), s.phase = .txCrcLo → s.selected = true → s.inputs = [] → s.reply = .ok r →
    step s = .next { afterXfer (s.c16.extractLsb' 0 8) s with cnt := 0, phase := .txToken })

/-- R146: the data-response token poll, chip-select asserted (R198, log 12). -/
def Obligations.TokenPollStep : Prop :=
  ∀ (s : State) (r : Byte), s.phase = .txToken → s.selected = true → s.inputs = [] → s.reply = .ok r →
    (r ≠ 0xFF#8 → step s = .next { afterXfer 0xFF#8 s with drt := r, cnt := 0, phase := .txBusy }) ∧
    (r = 0xFF#8 → s.cnt + 1 = s.limits.nToken →
      step s = .next { afterXfer 0xFF#8 s with cnt := s.cnt + 1, result := .timeout, phase := .idle }) ∧
    (r = 0xFF#8 → s.cnt + 1 ≠ s.limits.nToken → step s = .next { afterXfer 0xFF#8 s with cnt := s.cnt + 1 })

/-- R147, R148: the busy poll, chip-select asserted (R198, log 12), and the token inspected when the line reads idle: its low nibble alone decides. -/
def Obligations.BusyPollStep : Prop :=
  ∀ (s : State) (r : Byte), s.phase = .txBusy → s.selected = true → s.inputs = [] → s.reply = .ok r →
    (r = 0xFF#8 → s.drt.toNat % 16 = 5 →
      step s = .next { afterXfer 0xFF#8 s with result := .ok, phase := .idle }) ∧
    (r = 0xFF#8 → s.drt.toNat % 16 ≠ 5 →
      step s = .next { afterXfer 0xFF#8 s with result := .protocol, phase := .idle }) ∧
    (r ≠ 0xFF#8 → s.cnt + 1 = s.limits.nBusy →
      step s = .next { afterXfer 0xFF#8 s with cnt := s.cnt + 1, result := .timeout, phase := .idle }) ∧
    (r ≠ 0xFF#8 → s.cnt + 1 ≠ s.limits.nBusy → step s = .next { afterXfer 0xFF#8 s with cnt := s.cnt + 1 })

/-! ## Who writes what -/

/-- 10_state.md R20, R21, R23, R24, R25: the only events that change C7, C16, RXCRC, DRT and RDATA. -/
def Obligations.OnlyNamedEventsWriteTheRegisters : Prop :=
  ∀ s t : State, step s = .next t →
    (t.c7 ≠ s.c7 → Sys2Proof.Spec.resets s ∨ Sys2Proof.Spec.issues s .crc7Init ∨
      (∃ d, Sys2Proof.Spec.issues s (.crc7Update d)) ∨ ∃ n, Sys2Proof.Spec.issues s (.crc7Buf n)) ∧
    (t.c16 ≠ s.c16 → Sys2Proof.Spec.resets s ∨ Sys2Proof.Spec.issues s .crc16Init ∨
      (∃ d, Sys2Proof.Spec.issues s (.crc16Update d)) ∨ (∃ n, Sys2Proof.Spec.issues s (.crc16Buf n)) ∨
      (∃ n, Sys2Proof.Spec.issues s (.sendBlock n)) ∨ (∃ n, Sys2Proof.Spec.issues s (.receiveBlock n)) ∨
      Sys2Proof.Spec.blockTurn s .rxData) ∧
    (t.rxcrc ≠ s.rxcrc → Sys2Proof.Spec.resets s ∨ (∃ n, Sys2Proof.Spec.issues s (.receiveBlock n)) ∨
      Sys2Proof.Spec.blockTurn s .rxCrcHi ∨ Sys2Proof.Spec.blockTurn s .rxCrcLo) ∧
    (t.drt ≠ s.drt → Sys2Proof.Spec.resets s ∨ (∃ n, Sys2Proof.Spec.issues s (.sendBlock n)) ∨
      Sys2Proof.Spec.blockTurn s .txToken) ∧
    (t.rdata ≠ s.rdata → Sys2Proof.Spec.resets s ∨ ∃ i, Sys2Proof.Spec.issues s (.bufRead i))

/-- R22, R112: a byte of BUF changes only by a BUF_WRITE to it, by the deframer receiving it, or by reset; and the payload
of a SEND_BLOCK in progress does not change under it. -/
def Obligations.OnlyBufWriteAndTheDeframerChangeBuf : Prop :=
  (∀ (s t : State) (a : Nat), step s = .next t → t.bufByte a ≠ s.bufByte a →
    Sys2Proof.Spec.resets s ∨ (∃ (i : BitVec 9) (d : BitVec 8), i.toNat = a ∧ Sys2Proof.Spec.issues s (.bufWrite i d)) ∨
      (Sys2Proof.Spec.blockTurn s .rxData ∧ s.idx.toNat = a)) ∧
  (∀ (i : Instr) (s t : State), exec i s = .next t → (∀ x d, i ≠ .bufWrite x d) → ∀ a, t.bufByte a = s.bufByte a)

/-- R162 (derived there): VALID rises only at the second CRC byte of a receive, with RESULT = OK and the received CRC equal
to the CRC-16 of the payload in BUF. -/
def Obligations.ValidRisesOnlyWithACheckedPayload : Prop :=
  ∀ s t : State, s.Inv → step s = .next t → s.valid = false → t.valid = true →
    Sys2Proof.Spec.blockTurn s .rxCrcLo ∧ t.result = .ok ∧ t.busy = false ∧
      t.rxcrc = crc16 (t.bufBytes s.len.toNat) ∧ t.c16 = t.rxcrc

/-- R27: RESULT is one of the codes 0 to 6, is held while a block command runs, and changes only at a completion: of the block
command in progress, at a step of its own, or of a command written while BUSY = 0; or at reset (R190). -/
def Obligations.ResultChangesOnlyAtCompletion : Prop :=
  (∀ s : State, s.result.code.toNat ≤ 6) ∧
  (∀ s t : State, step s = .next t → t.result ≠ s.result →
    t.busy = false ∧
      (Sys2Proof.Spec.resets s ∨ (∃ p, p ≠ .idle ∧ Sys2Proof.Spec.blockTurn s p) ∨
        (s.busy = false ∧ ∃ w rest, s.inputs = .hostWrite 0#4 w :: rest)))

/-- What the framer and the deframer leave alone at every step of the block: C7 (40_crc.md R97), RDATA (10_state.md R25, R32),
OVERRUN (R26; 30_encoding.md R64) and LEN (R28, latched at issue); BUF in every phase but RX_DATA (R22; 42_block_framer.md
R136, R149), and VALID in every phase but RX_CRC_LO (R138, R149). The clauses on the limits, the draw of unwritten bytes and
the chip-select level are about the model's own fields (logs 4, 3 and 12). -/
def Obligations.SequencerLeavesTheRestAlone : Prop :=
  ∀ s t : State, s.inputs = [] → step s = .next t →
    t.c7 = s.c7 ∧ t.rdata = s.rdata ∧ t.overrun = s.overrun ∧ t.len = s.len ∧ t.limits = s.limits ∧
    (s.phase ≠ .rxData → t.buf = s.buf) ∧ (s.phase ≠ .rxCrcLo → t.valid = s.valid) ∧ t.bufDraw = s.bufDraw ∧
    t.selected = s.selected

/-! ## Host accesses, reset, refused runs -/

/-- R30: the value each register number reads, and that a read leaves the block as it was. The record of the value read is
the model's (log 8). -/
def Obligations.HostReadReturnsTheRegister : Prop :=
  (∀ (s : State) (n : BitVec 4) (rest : List Input), s.inputs = .hostRead n :: rest →
    step s = .next { s with inputs := rest, trace := s.trace ++ [.hostRead n (s.readReg n)] }) ∧
  (∀ s : State, s.readReg 0#4 = s.statusWord ∧ s.readReg 1#4 = s.c7.setWidth 32 ∧
    s.readReg 2#4 = ((s.c7.setWidth 8 <<< 1) ||| 1#8).setWidth 32 ∧ s.readReg 3#4 = s.c16.setWidth 32 ∧
    s.readReg 4#4 = s.rxcrc.setWidth 32 ∧ s.readReg 5#4 = s.drt.setWidth 32 ∧ s.readReg 6#4 = s.rdata.setWidth 32 ∧
    ∀ n : BitVec 4, 7 ≤ n.toNat → s.readReg n = 0x00000000#32)

/-- R116: a write to register 1 to 15 changes no state. -/
def Obligations.WriteElsewhereIsIgnored : Prop :=
  ∀ (s : State) (n : BitVec 4) (v : Word) (rest : List Input), n ≠ 0#4 → s.inputs = .hostWrite n v :: rest →
    step s = .next { s with inputs := rest }

/-- R26, R170: the bits of the STATUS word, RESULT by its seven numbers. -/
def Obligations.StatusWordBits : Prop :=
  ∀ s : State,
    s.statusWord.getLsbD 0 = s.busy ∧ s.statusWord.getLsbD 1 = s.valid ∧ s.statusWord.getLsbD 2 = s.overrun ∧
    s.statusWord.getLsbD 3 = false ∧ s.statusWord.extractLsb' 4 3 =
      (match s.result with
       | .ok => 0#3
       | .protocol => 1#3
       | .timeout => 2#3
       | .crcMismatch => 3#3
       | .busUnavailable => 4#3
       | .range => 5#3
       | .illegal => 6#3) ∧
    (∀ i, 7 ≤ i → s.statusWord.getLsbD i = false) ∧
    (s.busy = true ↔ s.phase ≠ .idle)

/-- R190, R37: what reset leaves, of the block's elements. That each BUF byte is the free value of draw number `bufDraw` at its
index is the model's form (log 3). -/
def Obligations.ResetLeavesTheStatedValues : Prop :=
  State.reset.c7 = 0x00#7 ∧ State.reset.c16 = 0x0000#16 ∧ State.reset.rxcrc = 0x0000#16 ∧ State.reset.drt = 0xFF#8 ∧
  State.reset.rdata = 0x00#8 ∧ State.reset.statusWord = 0x00000000#32 ∧ State.reset.phase = .idle ∧
  State.reset.len = 0#10 ∧ State.reset.idx = 0#10 ∧ State.reset.cnt = 0 ∧
  (∀ a, State.reset.bufByte a = Config.bufAtReset State.reset.bufDraw a)

/-- R191: a reset at any time takes every element to its reset value, with no exchange and no completion; what stands
outside the block is kept, and BUF bytes are drawn anew: the draw goes up by one (logs 3, 12 and 16). -/
def Obligations.ResetAbandonsTheCommand : Prop :=
  ∀ (s : State) (rest : List Input), s.inputs = .reset :: rest →
    ∃ t, step s = .next t ∧ t.inputs = rest ∧ t.trace = s.trace ∧ t.card = s.card ∧ t.limits = s.limits ∧
      t.c7 = 0x00#7 ∧ t.c16 = 0x0000#16 ∧ t.rxcrc = 0x0000#16 ∧ t.drt = 0xFF#8 ∧ t.rdata = 0x00#8 ∧
      t.statusWord = 0x00000000#32 ∧ t.phase = .idle ∧ t.len = 0#10 ∧ t.idx = 0#10 ∧ t.cnt = 0 ∧
      t.xferDraw = s.xferDraw ∧ t.selected = s.selected ∧ t.bufDraw = s.bufDraw + 1 ∧
      ∀ a, t.bufByte a = Config.bufAtReset t.bufDraw a

/-- R197, R198, R183, D16 and U6 to U8: which steps are refused, and that no other is. It is the model's choice that a release
of chip-select (log 12, DESIGN CHOICE) and a host exchange or reopening (log 11, DESIGN CHOICE) after the command has ended,
but before the host has read BUSY = 0, is let run: R198 with D16, and R51, have the host wait until it reads that. So is it that a host exchange or reopening while
BUSY = 0 is let run with chip-select deasserted (log 11, DESIGN CHOICE; R47, R193 and D16 have the host assert it). And what
the host does on the transport or with chip-select where it is not refused leaves every element of the block as it was
(R51), a change of chip-select being its level alone. The inputs that stand for these acts, and the level, are the model's
(logs 11 to 13). -/
def Obligations.OnlyTheNamedRunsAreRefused : Prop :=
  (∀ (s : State) (why : Refusal), step s = .refused why ↔
    (s.busy = true ∧ (∃ rest, s.inputs = .hostExchange :: rest) ∧ why = .hostExchangeWhileBusy) ∨
    (s.busy = true ∧ (∃ rest, s.inputs = .transportReopen :: rest) ∧ why = .transportReopenWhileBusy) ∨
    (s.busy = true ∧ (∃ rest, s.inputs = .chipSelect false :: rest) ∧ why = .chipSelectReleasedWhileBusy) ∨
    (s.busy = true ∧ s.selected = false ∧ (s.inputs = [] ∨ ∃ rest, s.inputs = .blockStep :: rest) ∧
      why = .chipSelectNotAsserted) ∨
    ((∃ rest, s.inputs = .secondHostAccess :: rest) ∧ why = .secondHost)) ∧
  (∀ (s : State) (rest : List Input), s.busy = false → s.inputs = .hostExchange :: rest →
    step s = .next { s with inputs := rest }) ∧
  (∀ (s : State) (rest : List Input), s.busy = false → s.inputs = .transportReopen :: rest →
    step s = .next { s with inputs := rest }) ∧
  (∀ (s : State) (rest : List Input) (a : Bool), s.busy = false ∨ a = true → s.inputs = .chipSelect a :: rest →
    step s = .next { s with inputs := rest, selected := a })

/-- R173: no instruction ends in a fault or a refusal: in every state, every command answers a next state. -/
def Obligations.EveryCommandAnswersANextState : Prop :=
  ∀ (i : Instr) (s : State), ∃ t, exec i s = .next t

/-- 30_encoding.md R72 (`wait`): a turn of the pseudo reads STATUS; while its bit 0 is 1 it repeats. That the block takes
a step between two reads is the model's choice (log 14). -/
def Obligations.WaitPollsStatus : Prop :=
  ∀ (s : State) (rest : List Input), s.inputs = .wait :: rest →
    (s.busy = false →
      step s = .next { s with inputs := rest, trace := s.trace ++ [.hostRead 0#4 s.statusWord] }) ∧
    (s.busy = true →
      step s = .next { s with
        inputs := .blockStep :: .wait :: rest, trace := s.trace ++ [.hostRead 0#4 s.statusWord] })

/-- R72: the expansions of `crc7.frame`, `crc16.bytes` and `buf.fill`, and that `buf.fill` refuses an index above 511. -/
def Obligations.PseudoInstructionsExpand : Prop :=
  (∀ b0 b1 b2 b3 b4 : Nat, b0 < 256 → b1 < 256 → b2 < 256 → b3 < 256 → b4 < 256 →
    assemble (.crc7Frame b0 b1 b2 b3 b4) =
      some (AsmLine.crc7Init.inputs ++ (AsmLine.crc7Upd b0).inputs ++ (AsmLine.crc7Upd b1).inputs ++
        (AsmLine.crc7Upd b2).inputs ++ (AsmLine.crc7Upd b3).inputs ++ (AsmLine.crc7Upd b4).inputs)) ∧
  (∀ ds : List Nat, ds ≠ [] → (∀ d ∈ ds, d < 256) →
    assemble (.crc16Bytes ds) = some (AsmLine.crc16Init.inputs ++ ds.flatMap fun d => (AsmLine.crc16Upd d).inputs)) ∧
  (∀ (i : Nat) (ds : List Nat), ds ≠ [] → (∀ d ∈ ds, d < 256) → i + (ds.length - 1) ≤ 511 →
    assemble (.bufFill i ds) = some (ds.zipIdx.flatMap fun p => (AsmLine.bufWr (i + p.2) p.1).inputs)) ∧
  (∀ (i : Nat) (ds : List Nat), ds ≠ [] → 511 < i + (ds.length - 1) → assemble (.bufFill i ds) = none)

/-! ## Invariants -/

/-- The reset state meets the invariant. -/
def Obligations.ResetMeetsTheInvariant : Prop := State.reset.Inv

/-- 10_state.md R26 to R28, 42_block_framer.md R134 to R147: every step keeps the invariant: the ranges of LEN, IDX and CNT,
the position of the sequencer, the running checksum, and VALID only over a checked payload. -/
def Obligations.EveryStepKeepsTheInvariant : Prop := ∀ s t : State, s.Inv → step s = .next t → t.Inv

/-- R41, R173: from a state that meets the invariant no step faults. -/
def Obligations.NoFaultUnderTheInvariant : Prop := ∀ (s : State) (f : Fault), s.Inv → step s ≠ .fault f

/-- R114: a host that reads STATUS with BUSY = 0, VALID = 1 and RESULT = 0 has in BUF a whole payload, every byte of it
written since reset, whose CRC-16 is the one received. -/
def Obligations.SurfacedPayloadIsChecked : Prop :=
  ∀ s : State, s.Inv → maySurface (s.readReg 0#4) = true →
    s.busy = false ∧ s.result = .ok ∧
    ∃ n : Nat, 1 ≤ n ∧ n ≤ 512 ∧ s.bufWritten n = true ∧ crc16 (s.bufBytes n) = s.rxcrc

/-! ## Whole commands -/

/-- R160 (derived there): every block command ends, within its bound. This rests on every exchange returning, the spec's own
assumption (R50, log 17), and on chip-select being asserted (R198, log 12). -/
def Obligations.BlockCommandEndsWithinItsBound : Prop :=
  (∀ s : State, s.Inv → s.selected = true → s.inputs = [] →
    ∃ k t, k ≤ s.exchangesLeft ∧ Host.Core.run Sys2Proof.core k s = .next t ∧ t.busy = false ∧
      t.exchanges = s.exchanges + k) ∧
  (∀ (s t : State) (n : BitVec 10), s.busy = false → 1 ≤ n.toNat → n.toNat ≤ 512 →
    (exec (.receiveBlock n) s = .next t → t.exchangesLeft = s.limits.nStart + n.toNat + 2) ∧
    (exec (.sendBlock n) s = .next t → t.exchangesLeft = 3 + n.toNat + s.limits.nToken + s.limits.nBusy))

/-- R139 (derived there): the state after each outcome of a RECEIVE_BLOCK, whatever the card answers. That it ends rests on
every exchange returning (R50, log 17) and on chip-select being asserted (R198, log 12). -/
def Obligations.ReceiveEndsInOneOfItsOutcomes : Prop :=
  ∀ (s : State) (n : BitVec 10), s.Inv → s.busy = false → s.selected = true → s.inputs = [] → 1 ≤ n.toNat → n.toNat ≤ 512 →
    ∃ (u t : State) (k : Nat) (es : List Event) (junk : List Byte),
      exec (.receiveBlock n) s = .next u ∧ Host.Core.run Sys2Proof.core k u = .next t ∧ t.busy = false ∧
      t.trace = s.trace ++ es ∧ es.length = k ∧ transmitted es = List.replicate k 0xFF#8 ∧ (∀ b ∈ junk, b ≠ 0xFE#8) ∧
      ((t.result = .ok ∧ t.valid = true ∧ t.c16 = crc16 (t.bufBytes n.toNat) ∧ t.rxcrc = t.c16 ∧
          junk.length < s.limits.nStart ∧ k = junk.length + 1 + n.toNat + 2 ∧
          (∀ a, n.toNat ≤ a → t.bufByte a = s.bufByte a) ∧
          Sys2Proof.Spec.received es = junk ++ 0xFE#8 :: (t.bufBytes n.toNat ++ [crcHi t.rxcrc, crcLo t.rxcrc])) ∨
       (t.result = .crcMismatch ∧ t.valid = false ∧ t.c16 = crc16 (t.bufBytes n.toNat) ∧ t.rxcrc ≠ t.c16 ∧
          junk.length < s.limits.nStart ∧ k = junk.length + 1 + n.toNat + 2 ∧
          (∀ a, n.toNat ≤ a → t.bufByte a = s.bufByte a) ∧
          Sys2Proof.Spec.received es = junk ++ 0xFE#8 :: (t.bufBytes n.toNat ++ [crcHi t.rxcrc, crcLo t.rxcrc])) ∨
       (t.result = .timeout ∧ t.valid = false ∧ (∀ a, t.bufByte a = s.bufByte a) ∧ t.c16 = 0x0000#16 ∧
          t.rxcrc = 0x0000#16 ∧ k = s.limits.nStart ∧ Sys2Proof.Spec.received es = junk) ∨
       (t.result = .busUnavailable ∧ t.valid = false ∧ 1 ≤ k ∧ k ≤ s.limits.nStart + n.toNat + 2 ∧
          k = (Sys2Proof.Spec.received es).length + 1 ∧
          ∃ m : Nat, m ≤ n.toNat ∧ t.c16 = crc16 (t.bufBytes m) ∧ (∀ a, m ≤ a → t.bufByte a = s.bufByte a) ∧
            ((m = 0 ∧ Sys2Proof.Spec.received es = junk ∧ t.rxcrc = 0x0000#16) ∨
             (Sys2Proof.Spec.received es = junk ++ 0xFE#8 :: t.bufBytes m ∧ t.rxcrc = 0x0000#16) ∨
             (m = n.toNat ∧ ∃ hi : Byte, t.rxcrc = hi ++ 0x00#8 ∧
               Sys2Proof.Spec.received es = junk ++ 0xFE#8 :: (t.bufBytes m ++ [hi])))))

/-- R149 (derived there): the state after each outcome of a SEND_BLOCK, whatever the card answers, and the bytes received in
each: `ignored` through the second CRC byte, then `q` polls without a token, the token, and `busy` before the line reads
idle. That it ends rests on every exchange returning (R50, log 17) and on chip-select
being asserted (R198, log 12). -/
def Obligations.SendEndsInOneOfItsOutcomes : Prop :=
  ∀ (s : State) (n : BitVec 10), s.Inv → s.busy = false → s.selected = true → s.inputs = [] → 1 ≤ n.toNat → n.toNat ≤ 512 →
    ∃ (u t : State) (k : Nat) (es : List Event),
      exec (.sendBlock n) s = .next u ∧ Host.Core.run Sys2Proof.core k u = .next t ∧ t.busy = false ∧
      t.trace = s.trace ++ es ∧ es.length = k ∧
      transmitted es = (0xFE#8 :: (s.bufBytes n.toNat ++
        (crcHi (crc16 (s.bufBytes n.toNat)) :: crcLo (crc16 (s.bufBytes n.toNat)) ::
          List.replicate (s.limits.nToken + s.limits.nBusy) 0xFF#8))).take k ∧
      t.buf = s.buf ∧ t.bufDraw = s.bufDraw ∧ t.valid = s.valid ∧ t.c16 = crc16 (s.bufBytes n.toNat) ∧
      ((∃ (ignored busy : List Byte) (q : Nat), ignored.length = 3 + n.toNat ∧ q < s.limits.nToken ∧
          busy.length < s.limits.nBusy ∧ (∀ b ∈ busy, b ≠ 0xFF#8) ∧ t.drt ≠ 0xFF#8 ∧
          Sys2Proof.Spec.received es = ignored ++ (List.replicate q 0xFF#8 ++ t.drt :: (busy ++ [0xFF#8])) ∧
          k = 3 + n.toNat + (q + 1) + (busy.length + 1) ∧
          t.result = if t.drt.toNat % 16 = 5 then .ok else .protocol) ∨
       (∃ ignored : List Byte, ignored.length = 3 + n.toNat ∧ t.result = .timeout ∧ t.drt = 0xFF#8 ∧
          Sys2Proof.Spec.received es = ignored ++ List.replicate s.limits.nToken 0xFF#8 ∧
          k = 3 + n.toNat + s.limits.nToken) ∨
       (∃ (ignored busy : List Byte) (q : Nat), ignored.length = 3 + n.toNat ∧ q < s.limits.nToken ∧
          busy.length = s.limits.nBusy ∧ (∀ b ∈ busy, b ≠ 0xFF#8) ∧ t.result = .timeout ∧ t.drt ≠ 0xFF#8 ∧
          Sys2Proof.Spec.received es = ignored ++ (List.replicate q 0xFF#8 ++ t.drt :: busy) ∧
          k = 3 + n.toNat + (q + 1) + s.limits.nBusy) ∨
       (t.result = .busUnavailable ∧ 1 ≤ k ∧ k ≤ 3 + n.toNat + s.limits.nToken + s.limits.nBusy ∧
          k = (Sys2Proof.Spec.received es).length + 1 ∧
          ((∃ ignored : List Byte, ignored.length < 3 + n.toNat ∧ t.drt = 0xFF#8 ∧ Sys2Proof.Spec.received es = ignored) ∨
           (∃ (ignored : List Byte) (q : Nat), ignored.length = 3 + n.toNat ∧ q < s.limits.nToken ∧ t.drt = 0xFF#8 ∧
              Sys2Proof.Spec.received es = ignored ++ List.replicate q 0xFF#8) ∨
           (∃ (ignored busy : List Byte) (q : Nat), ignored.length = 3 + n.toNat ∧ q < s.limits.nToken ∧
              busy.length < s.limits.nBusy ∧ (∀ b ∈ busy, b ≠ 0xFF#8) ∧ t.drt ≠ 0xFF#8 ∧
              Sys2Proof.Spec.received es = ignored ++ (List.replicate q 0xFF#8 ++ t.drt :: busy)))))

/-- R126: a receive whose card answers as R126's table says ends OK with the payload in BUF, chip-select asserted (R198,
log 12). -/
def Obligations.ReceiveDeliversThePayload : Prop :=
  ∀ (s u : State) (n : BitVec 10) (junk p : List Byte) (more : List XferResult),
    s.busy = false → s.selected = true → s.inputs = [] → 1 ≤ n.toNat → n.toNat ≤ 512 → p.length = n.toNat →
    (∀ b ∈ junk, b ≠ 0xFE#8) → junk.length < s.limits.nStart →
    s.card = (junk ++ 0xFE#8 :: (p ++ [crcHi (crc16 p), crcLo (crc16 p)])).map XferResult.ok ++ more →
    exec (.receiveBlock n) s = .next u →
    ∃ t, Host.Core.run Sys2Proof.core (junk.length + 1 + n.toNat + 2) u = .next t ∧
      t.busy = false ∧ t.result = .ok ∧ t.valid = true ∧ t.bufBytes n.toNat = p ∧ t.c16 = crc16 p ∧
      t.rxcrc = crc16 p ∧ t.card = more ∧ (∀ a, n.toNat ≤ a → t.bufByte a = s.bufByte a) ∧
      transmitted (t.trace.drop s.trace.length) = List.replicate (junk.length + 1 + n.toNat + 2) 0xFF#8

/-- R127: a send whose card answers as R127's table says ends OK, having transmitted the block, chip-select asserted (R198,
log 12). -/
def Obligations.SendTransmitsTheBlock : Prop :=
  ∀ (s u : State) (n : BitVec 10) (ignored busy : List Byte) (p : Nat) (d : Byte) (more : List XferResult),
    s.busy = false → s.selected = true → s.inputs = [] → 1 ≤ n.toNat → n.toNat ≤ 512 → ignored.length = 3 + n.toNat →
    p < s.limits.nToken → d ≠ 0xFF#8 → d.toNat % 16 = 5 → (∀ b ∈ busy, b ≠ 0xFF#8) → busy.length < s.limits.nBusy →
    s.card = (ignored ++ (List.replicate p 0xFF#8 ++ d :: (busy ++ [0xFF#8]))).map XferResult.ok ++ more →
    exec (.sendBlock n) s = .next u →
    ∃ t, Host.Core.run Sys2Proof.core (3 + n.toNat + (p + 1) + (busy.length + 1)) u = .next t ∧
      t.busy = false ∧ t.result = .ok ∧ t.drt = d ∧ t.c16 = crc16 (s.bufBytes n.toNat) ∧ t.card = more ∧
      t.buf = s.buf ∧ t.valid = s.valid ∧
      transmitted (t.trace.drop s.trace.length) =
        0xFE#8 :: (s.bufBytes n.toNat ++ (crcHi (crc16 (s.bufBytes n.toNat)) :: crcLo (crc16 (s.bufBytes n.toNat)) ::
          List.replicate (p + 1 + (busy.length + 1)) 0xFF#8))

/-- R163 (derived there): the round trip through a card that stores the block and answers with it: whatever the send's
first LEN + 3 transmitted bytes were, a receive that gets them back, chip-select asserted (R198, log 12), holds the payload
that was sent. -/
def Obligations.SentBlockReceivedBackIsThePayload : Prop :=
  ∀ (s u t v w : State) (n : BitVec 10) (k : Nat) (junk : List Byte) (more : List XferResult),
    s.busy = false → s.inputs = [] → 1 ≤ n.toNat → n.toNat ≤ 512 →
    exec (.sendBlock n) s = .next u → Host.Core.run Sys2Proof.core k u = .next t → t.busy = false → t.result = .ok →
    t.exchanges = s.exchanges + k →
    v.busy = false → v.selected = true → v.inputs = [] → (∀ b ∈ junk, b ≠ 0xFE#8) → junk.length < v.limits.nStart →
    v.card = (junk ++ (transmitted (t.trace.drop s.trace.length)).take (n.toNat + 3)).map XferResult.ok ++ more →
    exec (.receiveBlock n) v = .next w →
    ∃ x, Host.Core.run Sys2Proof.core (junk.length + n.toNat + 3) w = .next x ∧
      x.busy = false ∧ x.result = .ok ∧ x.valid = true ∧ x.bufBytes n.toNat = s.bufBytes n.toNat

/-- 60_exceptions.md R176: a command word written just before the block's last step is dropped; the same word written just
after is accepted. -/
def Obligations.LastStepDecidesTheRace : Prop :=
  ∀ (s t : State) (w : Word) (i : Instr), s.busy = true → decode w = .ok i →
    step { s with inputs := [] } = .next t → t.busy = false →
    (Host.Core.run Sys2Proof.core 2 { s with inputs := [.hostWrite 0#4 w, .blockStep] } =
      .next { t with overrun := true }) ∧
    (Host.Core.run Sys2Proof.core 2 { s with inputs := [.blockStep, .hostWrite 0#4 w] } = exec i t)

/-! ## The checksums -/

/-- 40_crc.md R96 (derived there): a stream of UPDATE commands after INIT gives the batch value. -/
def Obligations.StreamOfUpdatesEqualsTheBatch : Prop :=
  ∀ (s : State) (ds : List Byte), s.busy = false →
    (s.inputs = (Instr.crc7Init :: ds.map Instr.crc7Update).map issueInput →
      ∃ t, Host.Core.run Sys2Proof.core (ds.length + 1) s = .next t ∧
        t = { s with inputs := [], c7 := crc7 ds, result := .ok }) ∧
    (s.inputs = (Instr.crc16Init :: ds.map Instr.crc16Update).map issueInput →
      ∃ t, Host.Core.run Sys2Proof.core (ds.length + 1) s = .next t ∧
        t = { s with inputs := [], c16 := crc16 ds, result := .ok })

/-- R80 to R82, R85 to R87: the folds, the equivalent forms the rules give, and the initial values. -/
def Obligations.ChecksumStepsHaveTheRulesForms : Prop :=
  (∀ (c : BitVec 7) (b : Bool), crc7Bit c b = (c <<< 1) ^^^ (if b ^^ c.getLsbD 6 then 0x09#7 else 0x00#7)) ∧
  (∀ (c : BitVec 7) (d : Byte), crc7Byte c d =
    crc7Bit (crc7Bit (crc7Bit (crc7Bit (crc7Bit (crc7Bit (crc7Bit (crc7Bit c (d.getLsbD 7)) (d.getLsbD 6))
      (d.getLsbD 5)) (d.getLsbD 4)) (d.getLsbD 3)) (d.getLsbD 2)) (d.getLsbD 1)) (d.getLsbD 0)) ∧
  (∀ (c : BitVec 16) (d : Byte), crc16Byte c d =
    (fun c : BitVec 16 => (c <<< 1) ^^^ (if c.getLsbD 15 then 0x1021#16 else 0x0000#16))^[8]
      (c ^^^ (d.setWidth 16 <<< 8))) ∧
  (∀ (s : List Byte) (d : Byte), crc7 (s ++ [d]) = crc7Byte (crc7 s) d ∧ crc16 (s ++ [d]) = crc16Byte (crc16 s) d) ∧
  crc7 [] = 0x00#7 ∧ crc16 [] = 0x0000#16

/-- R84: the trailer byte. The frame of GO_IDLE_STATE and its trailer 0x95 are not R84's: they are the spec's own regression
case from general knowledge (R82; 95_test_vectors.md 1.1; D38, K6, K7; log 18). -/
def Obligations.TrailerByteOfAFrame : Prop :=
  (∀ c : BitVec 7, trailer c = (c.setWidth 8 <<< 1) ||| 1#8 ∧ (trailer c).extractLsb' 1 7 = c ∧
    (trailer c).getLsbD 0 = true) ∧
  trailer (crc7 [0x40#8, 0x00#8, 0x00#8, 0x00#8, 0x00#8]) = 0x95#8

/-- R83 (derived there): CRC-7 is the remainder of M(x)·x^7 by x^7 + x^3 + 1, and a string followed by its CRC-7 bits
leaves remainder 0. -/
def Obligations.Crc7IsThePolynomialRemainder : Prop :=
  (∀ s : List Byte, Sys2Proof.Spec.bitsPoly (crc7 s) =
    (Sys2Proof.Spec.messagePoly s * Polynomial.X ^ 7) %ₘ (Polynomial.X ^ 7 + Polynomial.X ^ 3 + 1)) ∧
  (∀ s : List Byte, [6, 5, 4, 3, 2, 1, 0].foldl (fun c i => crc7Bit c ((crc7 s).getLsbD i)) (crc7 s) = 0x00#7)

/-- R88 (derived there): CRC-16 is the remainder of M(x)·x^16 by x^16 + x^12 + x^5 + 1; a string followed by its CRC-16,
most significant byte first, has CRC-16 0; and so has any string of zero bytes. -/
def Obligations.Crc16IsThePolynomialRemainder : Prop :=
  (∀ s : List Byte, Sys2Proof.Spec.bitsPoly (crc16 s) =
    (Sys2Proof.Spec.messagePoly s * Polynomial.X ^ 16) %ₘ
      (Polynomial.X ^ 16 + Polynomial.X ^ 12 + Polynomial.X ^ 5 + 1)) ∧
  (∀ s : List Byte, crc16 (s ++ [crcHi (crc16 s), crcLo (crc16 s)]) = 0x0000#16) ∧
  (∀ n : Nat, crc16 (List.replicate n 0x00#8) = 0x0000#16)

/-- 10_state.md R38 (derived there), R193: where every byte of `BUF[0..LEN)` has been written since reset, a checksum
command's result does not depend on what unwritten bytes read as; the byte read by BUF_READ likewise. -/
def Obligations.WrittenBytesAloneDecideTheResult : Prop :=
  ∀ (s t : State) (n : BitVec 10) (d : Nat), s.busy = false → n.toNat ≤ 512 → s.bufWritten n.toNat = true →
    (exec (.crc7Buf n) s = .next t → exec (.crc7Buf n) { s with bufDraw := d } = .next { t with bufDraw := d }) ∧
    (exec (.crc16Buf n) s = .next t → exec (.crc16Buf n) { s with bufDraw := d } = .next { t with bufDraw := d }) ∧
    (exec (.sendBlock n) s = .next t → exec (.sendBlock n) { s with bufDraw := d } = .next { t with bufDraw := d }) ∧
    (∀ i : BitVec 9, i.toNat < n.toNat → exec (.bufRead i) s = .next t →
      exec (.bufRead i) { s with bufDraw := d } = .next { t with bufDraw := d })

/-- R111, R113 (41_buffer_status.md R110): a byte written is the byte a later read of the same index copies to RDATA, and
a read of another index is not touched by it. -/
def Obligations.ByteWrittenIsTheByteReadBack : Prop :=
  ∀ (s t : State) (i j : BitVec 9) (d : BitVec 8), s.busy = false → s.buf.wf = true →
    exec (.bufWrite i d) s = .next t →
    t.buf.wf = true ∧ exec (.bufRead j) t = .next { t with rdata := if j = i then d else s.bufByte j.toNat, result := .ok }
end

