-- ==== Sys2Proof/Laws/Crc.lean ====
section
/-! SUPPORT. The checksum functions: strings one byte at a time (40_crc.md R82, R87), and linearity over exclusive-or
(R99), which the algebraic readings rest on. -/

namespace Sys2Proof.Machine

theorem crc7_nil : crc7 [] = 0x00#7 := rfl

theorem crc7_snoc (s : List Byte) (d : Byte) : crc7 (s ++ [d]) = crc7Byte (crc7 s) d := by simp [crc7]

theorem crc16_nil : crc16 [] = 0x0000#16 := rfl

theorem crc16_snoc (s : List Byte) (d : Byte) : crc16 (s ++ [d]) = crc16Byte (crc16 s) d := by simp [crc16]

/-- Bit `i` of one CRC-16 step: the bit below it, and the feedback at the polynomial's bits 0, 5 and 12. -/
theorem getLsbD_crc16Bit (c : BitVec 16) (b : Bool) (i : Nat) (hi : i < 16) :
    (crc16Bit c b).getLsbD i =
      ((decide (1 ≤ i) && c.getLsbD (i - 1)) ^^ ((b ^^ c.getLsbD 15) && decide (i = 0 ∨ i = 5 ∨ i = 12))) := by
  unfold crc16Bit crc16Poly
  cases h : b ^^ c.getLsbD 15 <;> interval_cases i <;> simp

/-- Bit `i` of one CRC-7 step: the bit below it, and the feedback at the polynomial's bits 0 and 3. -/
theorem getLsbD_crc7Bit (c : BitVec 7) (b : Bool) (i : Nat) (hi : i < 7) :
    (crc7Bit c b).getLsbD i =
      ((decide (1 ≤ i) && c.getLsbD (i - 1)) ^^ ((b ^^ c.getLsbD 6) && decide (i = 0 ∨ i = 3))) := by
  revert c b
  interval_cases i <;> decide

theorem crc16Bit_xor (c c' : BitVec 16) (b b' : Bool) :
    crc16Bit (c ^^^ c') (b ^^ b') = crc16Bit c b ^^^ crc16Bit c' b' := by
  apply BitVec.eq_of_getLsbD_eq
  intro i hi
  rw [BitVec.getLsbD_xor, getLsbD_crc16Bit _ _ i hi, getLsbD_crc16Bit _ _ i hi, getLsbD_crc16Bit _ _ i hi]
  simp only [BitVec.getLsbD_xor]
  cases decide (1 ≤ i) <;> cases decide (i = 0 ∨ i = 5 ∨ i = 12) <;> cases c.getLsbD 15 <;> cases c'.getLsbD 15 <;>
    cases b <;> cases b' <;> simp

theorem crc7Bit_xor (c c' : BitVec 7) (b b' : Bool) :
    crc7Bit (c ^^^ c') (b ^^ b') = crc7Bit c b ^^^ crc7Bit c' b' := by
  apply BitVec.eq_of_getLsbD_eq
  intro i hi
  rw [BitVec.getLsbD_xor, getLsbD_crc7Bit _ _ i hi, getLsbD_crc7Bit _ _ i hi, getLsbD_crc7Bit _ _ i hi]
  simp only [BitVec.getLsbD_xor]
  cases decide (1 ≤ i) <;> cases decide (i = 0 ∨ i = 3) <;> cases c.getLsbD 6 <;> cases c'.getLsbD 6 <;>
    cases b <;> cases b' <;> simp

/-! ## The two bytes of a CRC-16 (20_memory.md R45) -/

theorem crcHi_append (a b : Byte) : crcHi (a ++ b) = a := by
  unfold crcHi
  apply BitVec.eq_of_getLsbD_eq
  intro i hi
  have := BitVec.getLsbD_append (x := a) (y := b) (i := 8 + i)
  simp [hi]
  exact this.trans (by simp [hi])

theorem crcLo_append (a b : Byte) : crcLo (a ++ b) = b := by
  unfold crcLo
  apply BitVec.eq_of_getLsbD_eq
  intro i hi
  have := BitVec.getLsbD_append (x := a) (y := b) (i := i)
  simp [hi]
  exact this.trans (by simp [hi])

theorem crcHi_append_crcLo (c : BitVec 16) : crcHi c ++ crcLo c = c := by
  apply BitVec.eq_of_getLsbD_eq
  intro i hi
  have := BitVec.getLsbD_append (x := crcHi c) (y := crcLo c) (i := i)
  refine this.trans ?_
  unfold crcHi crcLo
  by_cases h : i < 8
  · simp [h]
  · have h' : i - 8 < 8 := by omega
    have h'' : 8 + (i - 8) = i := by omega
    simp [h, h', h'']

end Sys2Proof.Machine
end

