-- ==== Sys2Proof/Laws/Decode.lean ====
section
/-! SUPPORT. The fields of format C (30_encoding.md R60, R61) and the opcode map (R66). -/

namespace Sys2Proof

variable (op : BitVec 4) (len : BitVec 10) (idx : BitVec 9) (rsv : BitVec 1) (data : BitVec 8)

theorem getLsbD_formatC (i : Nat) :
    (formatC op len idx rsv data).getLsbD i =
      if i < 8 then data.getLsbD i else if i < 9 then rsv.getLsbD (i - 8) else if i < 18 then idx.getLsbD (i - 9)
      else if i < 28 then len.getLsbD (i - 18) else op.getLsbD (i - 28) := by
  simp only [formatC, BitVec.getLsbD_append]
  repeat' split
  all_goals first | omega | skip
  all_goals congr 1

theorem opField_formatC : opField (formatC op len idx rsv data) = op := by
  apply BitVec.eq_of_getLsbD_eq
  intro i hi
  simp only [opField, BitVec.getLsbD_extractLsb', getLsbD_formatC]
  rw [if_neg (by omega), if_neg (by omega), if_neg (by omega), if_neg (by omega)]
  simp [hi]

theorem lenField_formatC : lenField (formatC op len idx rsv data) = len := by
  apply BitVec.eq_of_getLsbD_eq
  intro i hi
  simp only [lenField, BitVec.getLsbD_extractLsb', getLsbD_formatC]
  rw [if_neg (by omega), if_neg (by omega), if_neg (by omega), if_pos (by omega)]
  simp [hi]

theorem idxField_formatC : idxField (formatC op len idx rsv data) = idx := by
  apply BitVec.eq_of_getLsbD_eq
  intro i hi
  simp only [idxField, BitVec.getLsbD_extractLsb', getLsbD_formatC]
  rw [if_neg (by omega), if_neg (by omega), if_pos (by omega)]
  simp [hi]

theorem rsvField_formatC : rsvField (formatC op len idx rsv data) = rsv := by
  apply BitVec.eq_of_getLsbD_eq
  intro i hi
  simp only [rsvField, BitVec.getLsbD_extractLsb', getLsbD_formatC]
  rw [if_neg (by omega), if_pos (by omega)]
  simp [hi]

theorem dataField_formatC : dataField (formatC op len idx rsv data) = data := by
  apply BitVec.eq_of_getLsbD_eq
  intro i hi
  simp only [dataField, BitVec.getLsbD_extractLsb', getLsbD_formatC]
  rw [if_pos (by omega)]
  simp [hi]

/-- A word is its five fields. -/
theorem formatC_fields (w : Word) : formatC (opField w) (lenField w) (idxField w) (rsvField w) (dataField w) = w := by
  apply BitVec.eq_of_getLsbD_eq
  intro i hi
  rw [getLsbD_formatC]
  simp only [opField, lenField, idxField, rsvField, dataField, BitVec.getLsbD_extractLsb']
  repeat' split
  · simp [*]
  · rw [show 8 + (i - 8) = i by omega, show decide (i - 8 < 1) = true by simp; omega, Bool.true_and]
  · rw [show 9 + (i - 9) = i by omega, show decide (i - 9 < 9) = true by simp; omega, Bool.true_and]
  · rw [show 18 + (i - 18) = i by omega, show decide (i - 18 < 10) = true by simp; omega, Bool.true_and]
  · rw [show 28 + (i - 28) = i by omega, show decide (i - 28 < 4) = true by simp; omega, Bool.true_and]

theorem Op.ofCode_code (o : Op) : Op.ofCode o.code = some o := by cases o <;> rfl

theorem Op.code_of_ofCode {c : BitVec 4} {o : Op} (h : Op.ofCode c = some o) : o.code = c := by
  revert c o
  decide

/-- A word that decodes has an assigned opcode, passes its row's test, and gives the command built from its fields. -/
theorem decode_ok {w : Word} {i : Instr} (h : decode w = .ok i) :
    ∃ op, Op.ofCode (opField w) = some op ∧ w &&& op.mask = op.matchWord ∧ op.build w = i := by
  unfold decode at h
  split at h
  · cases h
  · split at h
    · cases h
      exact ⟨_, ‹_›, ‹_›, rfl⟩
    · cases h

end Sys2Proof
end

