-- ==== Sys2Proof/Laws/State.lean ====
section
/-! SUPPORT. What each named update of the state does to each field: one lemma per field per update, true by rfl. -/

namespace Sys2Proof.Machine

variable (s : State)

/-! ## finish -/

@[simp] theorem finish_c7 (code : ResultCode) : (finish code s).c7 = s.c7 := rfl
@[simp] theorem finish_c16 (code : ResultCode) : (finish code s).c16 = s.c16 := rfl
@[simp] theorem finish_buf (code : ResultCode) : (finish code s).buf = s.buf := rfl
@[simp] theorem finish_rxcrc (code : ResultCode) : (finish code s).rxcrc = s.rxcrc := rfl
@[simp] theorem finish_drt (code : ResultCode) : (finish code s).drt = s.drt := rfl
@[simp] theorem finish_rdata (code : ResultCode) : (finish code s).rdata = s.rdata := rfl
@[simp] theorem finish_valid (code : ResultCode) : (finish code s).valid = s.valid := rfl
@[simp] theorem finish_overrun (code : ResultCode) : (finish code s).overrun = s.overrun := rfl
@[simp] theorem finish_result (code : ResultCode) : (finish code s).result = code := rfl
@[simp] theorem finish_phase (code : ResultCode) : (finish code s).phase = .idle := rfl
@[simp] theorem finish_len (code : ResultCode) : (finish code s).len = s.len := rfl
@[simp] theorem finish_idx (code : ResultCode) : (finish code s).idx = s.idx := rfl
@[simp] theorem finish_cnt (code : ResultCode) : (finish code s).cnt = s.cnt := rfl
@[simp] theorem finish_limits (code : ResultCode) : (finish code s).limits = s.limits := rfl
@[simp] theorem finish_inputs (code : ResultCode) : (finish code s).inputs = s.inputs := rfl
@[simp] theorem finish_card (code : ResultCode) : (finish code s).card = s.card := rfl
@[simp] theorem finish_xferDraw (code : ResultCode) : (finish code s).xferDraw = s.xferDraw := rfl
@[simp] theorem finish_selected (code : ResultCode) : (finish code s).selected = s.selected := rfl
@[simp] theorem finish_bufDraw (code : ResultCode) : (finish code s).bufDraw = s.bufDraw := rfl
@[simp] theorem finish_trace (code : ResultCode) : (finish code s).trace = s.trace := rfl

/-! ## dropCommand -/

@[simp] theorem dropCommand_c7 : (dropCommand s).c7 = s.c7 := rfl
@[simp] theorem dropCommand_c16 : (dropCommand s).c16 = s.c16 := rfl
@[simp] theorem dropCommand_buf : (dropCommand s).buf = s.buf := rfl
@[simp] theorem dropCommand_rxcrc : (dropCommand s).rxcrc = s.rxcrc := rfl
@[simp] theorem dropCommand_drt : (dropCommand s).drt = s.drt := rfl
@[simp] theorem dropCommand_rdata : (dropCommand s).rdata = s.rdata := rfl
@[simp] theorem dropCommand_valid : (dropCommand s).valid = s.valid := rfl
@[simp] theorem dropCommand_overrun : (dropCommand s).overrun = true := rfl
@[simp] theorem dropCommand_result : (dropCommand s).result = s.result := rfl
@[simp] theorem dropCommand_phase : (dropCommand s).phase = s.phase := rfl
@[simp] theorem dropCommand_len : (dropCommand s).len = s.len := rfl
@[simp] theorem dropCommand_idx : (dropCommand s).idx = s.idx := rfl
@[simp] theorem dropCommand_cnt : (dropCommand s).cnt = s.cnt := rfl
@[simp] theorem dropCommand_limits : (dropCommand s).limits = s.limits := rfl
@[simp] theorem dropCommand_inputs : (dropCommand s).inputs = s.inputs := rfl
@[simp] theorem dropCommand_card : (dropCommand s).card = s.card := rfl
@[simp] theorem dropCommand_xferDraw : (dropCommand s).xferDraw = s.xferDraw := rfl
@[simp] theorem dropCommand_selected : (dropCommand s).selected = s.selected := rfl
@[simp] theorem dropCommand_bufDraw : (dropCommand s).bufDraw = s.bufDraw := rfl
@[simp] theorem dropCommand_trace : (dropCommand s).trace = s.trace := rfl

/-! ## record -/

@[simp] theorem record_c7 (e : Event) : (record e s).c7 = s.c7 := rfl
@[simp] theorem record_c16 (e : Event) : (record e s).c16 = s.c16 := rfl
@[simp] theorem record_buf (e : Event) : (record e s).buf = s.buf := rfl
@[simp] theorem record_rxcrc (e : Event) : (record e s).rxcrc = s.rxcrc := rfl
@[simp] theorem record_drt (e : Event) : (record e s).drt = s.drt := rfl
@[simp] theorem record_rdata (e : Event) : (record e s).rdata = s.rdata := rfl
@[simp] theorem record_valid (e : Event) : (record e s).valid = s.valid := rfl
@[simp] theorem record_overrun (e : Event) : (record e s).overrun = s.overrun := rfl
@[simp] theorem record_result (e : Event) : (record e s).result = s.result := rfl
@[simp] theorem record_phase (e : Event) : (record e s).phase = s.phase := rfl
@[simp] theorem record_len (e : Event) : (record e s).len = s.len := rfl
@[simp] theorem record_idx (e : Event) : (record e s).idx = s.idx := rfl
@[simp] theorem record_cnt (e : Event) : (record e s).cnt = s.cnt := rfl
@[simp] theorem record_limits (e : Event) : (record e s).limits = s.limits := rfl
@[simp] theorem record_inputs (e : Event) : (record e s).inputs = s.inputs := rfl
@[simp] theorem record_card (e : Event) : (record e s).card = s.card := rfl
@[simp] theorem record_xferDraw (e : Event) : (record e s).xferDraw = s.xferDraw := rfl
@[simp] theorem record_selected (e : Event) : (record e s).selected = s.selected := rfl
@[simp] theorem record_bufDraw (e : Event) : (record e s).bufDraw = s.bufDraw := rfl
@[simp] theorem record_trace (e : Event) : (record e s).trace = s.trace ++ [e] := rfl

/-! ## afterXfer -/

@[simp] theorem afterXfer_c7 (t : Byte) : (afterXfer t s).c7 = s.c7 := rfl
@[simp] theorem afterXfer_c16 (t : Byte) : (afterXfer t s).c16 = s.c16 := rfl
@[simp] theorem afterXfer_buf (t : Byte) : (afterXfer t s).buf = s.buf := rfl
@[simp] theorem afterXfer_rxcrc (t : Byte) : (afterXfer t s).rxcrc = s.rxcrc := rfl
@[simp] theorem afterXfer_drt (t : Byte) : (afterXfer t s).drt = s.drt := rfl
@[simp] theorem afterXfer_rdata (t : Byte) : (afterXfer t s).rdata = s.rdata := rfl
@[simp] theorem afterXfer_valid (t : Byte) : (afterXfer t s).valid = s.valid := rfl
@[simp] theorem afterXfer_overrun (t : Byte) : (afterXfer t s).overrun = s.overrun := rfl
@[simp] theorem afterXfer_result (t : Byte) : (afterXfer t s).result = s.result := rfl
@[simp] theorem afterXfer_phase (t : Byte) : (afterXfer t s).phase = s.phase := rfl
@[simp] theorem afterXfer_len (t : Byte) : (afterXfer t s).len = s.len := rfl
@[simp] theorem afterXfer_idx (t : Byte) : (afterXfer t s).idx = s.idx := rfl
@[simp] theorem afterXfer_cnt (t : Byte) : (afterXfer t s).cnt = s.cnt := rfl
@[simp] theorem afterXfer_limits (t : Byte) : (afterXfer t s).limits = s.limits := rfl
@[simp] theorem afterXfer_inputs (t : Byte) : (afterXfer t s).inputs = s.inputs := rfl
@[simp] theorem afterXfer_card (t : Byte) : (afterXfer t s).card = s.card.tail := rfl
@[simp] theorem afterXfer_xferDraw (t : Byte) : (afterXfer t s).xferDraw = if s.card = [] then s.xferDraw + 1 else s.xferDraw := rfl
@[simp] theorem afterXfer_selected (t : Byte) : (afterXfer t s).selected = s.selected := rfl
@[simp] theorem afterXfer_bufDraw (t : Byte) : (afterXfer t s).bufDraw = s.bufDraw := rfl
@[simp] theorem afterXfer_trace (t : Byte) : (afterXfer t s).trace = s.trace ++ [.exchange t s.reply] := rfl

/-! ## resetBlock -/

@[simp] theorem resetBlock_c7 : (resetBlock s).c7 = 0x00#7 := rfl
@[simp] theorem resetBlock_c16 : (resetBlock s).c16 = 0x0000#16 := rfl
@[simp] theorem resetBlock_buf : (resetBlock s).buf = [] := rfl
@[simp] theorem resetBlock_rxcrc : (resetBlock s).rxcrc = 0x0000#16 := rfl
@[simp] theorem resetBlock_drt : (resetBlock s).drt = 0xFF#8 := rfl
@[simp] theorem resetBlock_rdata : (resetBlock s).rdata = 0x00#8 := rfl
@[simp] theorem resetBlock_valid : (resetBlock s).valid = false := rfl
@[simp] theorem resetBlock_overrun : (resetBlock s).overrun = false := rfl
@[simp] theorem resetBlock_result : (resetBlock s).result = .ok := rfl
@[simp] theorem resetBlock_phase : (resetBlock s).phase = .idle := rfl
@[simp] theorem resetBlock_len : (resetBlock s).len = 0#10 := rfl
@[simp] theorem resetBlock_idx : (resetBlock s).idx = 0#10 := rfl
@[simp] theorem resetBlock_cnt : (resetBlock s).cnt = 0 := rfl
@[simp] theorem resetBlock_limits : (resetBlock s).limits = s.limits := rfl
@[simp] theorem resetBlock_inputs : (resetBlock s).inputs = s.inputs := rfl
@[simp] theorem resetBlock_card : (resetBlock s).card = s.card := rfl
@[simp] theorem resetBlock_xferDraw : (resetBlock s).xferDraw = s.xferDraw := rfl
@[simp] theorem resetBlock_selected : (resetBlock s).selected = s.selected := rfl
@[simp] theorem resetBlock_bufDraw : (resetBlock s).bufDraw = s.bufDraw + 1 := rfl
@[simp] theorem resetBlock_trace : (resetBlock s).trace = s.trace := rfl

/-! ## Views -/

theorem busy_eq_true_iff : s.busy = true ↔ s.phase ≠ .idle := by simp [State.busy]

theorem busy_eq_false_iff : s.busy = false ↔ s.phase = .idle := by simp [State.busy]

/-- `finish` on an idle block only records the code. -/
theorem finish_of_idle {s : State} (code : ResultCode) (h : s.phase = .idle) : finish code s = { s with result := code } := by
  cases s
  cases h
  rfl

theorem bufByte_def (a : Nat) : s.bufByte a = s.buf.byte s.bufDraw a := rfl

/-- BUF bytes depend on the buffer and the draw alone. -/
theorem bufBytes_congr {s t : State} (hb : s.buf = t.buf) (hd : s.bufDraw = t.bufDraw) (n : Nat) :
    s.bufBytes n = t.bufBytes n := by
  simp [State.bufBytes, bufByte_def, hb, hd]

theorem bufWritten_congr {s t : State} (hb : s.buf = t.buf) (n : Nat) : s.bufWritten n = t.bufWritten n := by
  simp [State.bufWritten, hb]

end Sys2Proof.Machine
end

