-- ==== Sys2Proof/Laws/Memory.lean ====
section
/-! SUPPORT. BUF: read after write, the canonical form, and the strings `BUF[0..n)` (10_state.md R22, R38). -/

namespace Sys2Proof.Machine

theorem Memory.read?_write_same (m : Memory) (a : Nat) (v : Byte) : (m.write a v).read? a = some v := by
  induction m with
  | nil => simp [Memory.write, Memory.read?]
  | cons x m ih =>
    obtain ⟨b, w⟩ := x
    rcases Nat.lt_trichotomy a b with h | h | h
    · simp [Memory.write, h, Memory.read?]
    · simp [Memory.write, h, Memory.read?]
    · simp [Memory.write, Nat.not_lt_of_gt h, Nat.ne_of_gt h, Memory.read?, ih]

theorem Memory.read?_write_other (m : Memory) {a c : Nat} (v : Byte) (hac : c ≠ a) :
    (m.write a v).read? c = m.read? c := by
  induction m with
  | nil => simp [Memory.write, Memory.read?, hac]
  | cons x m ih =>
    obtain ⟨b, w⟩ := x
    rcases Nat.lt_trichotomy a b with h | h | h
    · simp [Memory.write, h, Memory.read?, hac]
    · subst h
      simp [Memory.write, Memory.read?, hac]
    · simp [Memory.write, Nat.not_lt_of_gt h, Nat.ne_of_gt h, Memory.read?, ih]

theorem Memory.byte_write_same (m : Memory) (d a : Nat) (v : Byte) : (m.write a v).byte d a = v := by
  simp [Memory.byte, Memory.read?_write_same]

theorem Memory.byte_write_other (m : Memory) (d : Nat) {a c : Nat} (v : Byte) (hac : c ≠ a) :
    (m.write a v).byte d c = m.byte d c := by
  simp [Memory.byte, Memory.read?_write_other m v hac]

theorem Memory.wf_iff (m : Memory) :
    m.wf = true ↔ (m.Pairwise fun x y => x.1 < y.1) ∧ ∀ x ∈ m, x.1 < bufSize := by
  simp [Memory.wf]

/-- A written list holds the new entry and entries of the old list only. -/
theorem Memory.mem_write {m : Memory} {a : Nat} {v : Byte} {x : Host.Cell} (h : x ∈ m.write a v) :
    x = (a, v) ∨ x ∈ m := by
  induction m with
  | nil => simpa [Memory.write] using h
  | cons y m ih =>
    obtain ⟨b, w⟩ := y
    simp only [Memory.write] at h
    split at h
    · simpa using h
    · split at h
      · rcases List.mem_cons.1 h with h | h
        · exact .inl h
        · exact .inr (List.mem_cons_of_mem _ h)
      · rcases List.mem_cons.1 h with h | h
        · exact .inr (h ▸ List.mem_cons_self ..)
        · exact (ih h).imp_right (List.mem_cons_of_mem _)

/-- A write keeps the canonical form. -/
theorem Memory.write_wf {m : Memory} {a : Nat} (v : Byte) (hm : m.wf = true) (ha : a < bufSize) :
    (m.write a v).wf = true := by
  rw [Memory.wf_iff] at hm ⊢
  obtain ⟨hp, hr⟩ := hm
  refine ⟨?_, fun x hx => (Memory.mem_write hx).elim (fun h => h ▸ ha) (hr x)⟩
  clear hr
  induction m with
  | nil => simp [Memory.write]
  | cons y m ih =>
    obtain ⟨b, w⟩ := y
    rw [List.pairwise_cons] at hp
    obtain ⟨hb, hp⟩ := hp
    simp only [Memory.write]
    split
    case isTrue h =>
      refine List.pairwise_cons.2 ⟨fun x hx => ?_, List.pairwise_cons.2 ⟨hb, hp⟩⟩
      rcases List.mem_cons.1 hx with hx | hx
      · exact hx ▸ h
      · exact Nat.lt_trans h (hb x hx)
    case isFalse h =>
      split
      case isTrue h' => exact List.pairwise_cons.2 ⟨fun x hx => h' ▸ hb x hx, hp⟩
      case isFalse h' =>
        refine List.pairwise_cons.2 ⟨fun x hx => ?_, ih hp⟩
        rcases Memory.mem_write hx with hx | hx
        · subst hx
          exact Nat.lt_of_le_of_ne (Nat.le_of_not_lt h) (Ne.symm h')
        · exact hb x hx

theorem bufBytes_zero (s : State) : s.bufBytes 0 = [] := rfl

theorem bufBytes_succ (s : State) (n : Nat) : s.bufBytes (n + 1) = s.bufBytes n ++ [s.bufByte n] := by
  simp [State.bufBytes, List.range_succ]

theorem bufBytes_length (s : State) (n : Nat) : (s.bufBytes n).length = n := by simp [State.bufBytes]

/-- Two states with the same bytes below `n` have the same `BUF[0..n)`. -/
theorem bufBytes_ext {s t : State} {n : Nat} (h : ∀ a < n, s.bufByte a = t.bufByte a) :
    s.bufBytes n = t.bufBytes n := by
  simpa [State.bufBytes] using h

theorem bufWritten_iff (s : State) (n : Nat) : s.bufWritten n = true ↔ ∀ a < n, (s.buf.read? a).isSome = true := by
  simp [State.bufWritten]

end Sys2Proof.Machine
end

