-- ==== Sys2Proof/Laws/Operands.lean ====
section
/-! SUPPORT. The length checks (30_encoding.md R67), the token test (42_block_framer.md R148), and IDX one further. -/

namespace Sys2Proof.Machine

theorem crcLenInRange_iff (n : BitVec 10) : crcLenInRange n = true ↔ n.toNat ≤ 512 := decide_eq_true_iff

theorem blockLenInRange_iff (n : BitVec 10) : blockLenInRange n = true ↔ 1 ≤ n.toNat ∧ n.toNat ≤ 512 := by
  unfold blockLenInRange
  rw [Bool.and_eq_true, decide_eq_true_iff, decide_eq_true_iff]
  rfl

theorem tokenAccepted_iff (d : Byte) : tokenAccepted d = true ↔ d.toNat % 16 = 5 := by
  revert d
  decide

/-- IDX does not wrap while it is an index of BUF (40_crc.md R99). -/
theorem toNat_idx_succ {i : BitVec 10} (h : i.toNat < 512) : (i + 1#10).toNat = i.toNat + 1 := by
  rw [BitVec.toNat_add]
  simp
  omega

/-- The test `i + 1 == LEN` of R136 and R143, on numbers. -/
theorem idx_succ_eq_iff {i n : BitVec 10} (h : i.toNat < 512) : i + 1#10 = n ↔ i.toNat + 1 = n.toNat := by
  rw [← toNat_idx_succ h, BitVec.toNat_inj]

end Sys2Proof.Machine
end

