-- ==== Sys2Proof/Laws/PerInstr.lean ====
section
/-! SUPPORT. Statements made one constructor of Instr at a time. EncodeLegal: the word of a command satisfies its row's
MATCH and MASK (30_encoding.md R65, R66). EncodeOpcode: its OP field is the row's. -/

namespace Sys2Proof.Laws

/-- The command's word passes the legality test of its own row. -/
def EncodeLegal.Statement (i : Instr) : Prop := encode i &&& i.op.mask = i.op.matchWord

/-- The command's word has the row's opcode. -/
def EncodeOpcode.Statement (i : Instr) : Prop := opField (encode i) = i.op.code

/-- A field masked out leaves the word of the other fields. -/
theorem formatC_and (op op' : BitVec 4) (len len' : BitVec 10) (idx idx' : BitVec 9) (rsv rsv' : BitVec 1)
    (data data' : BitVec 8) :
    formatC op len idx rsv data &&& formatC op' len' idx' rsv' data' =
      formatC (op &&& op') (len &&& len') (idx &&& idx') (rsv &&& rsv') (data &&& data') := by
  apply BitVec.eq_of_getLsbD_eq
  intro i hi
  simp only [BitVec.getLsbD_and, getLsbD_formatC]
  repeat' split
  all_goals rfl

theorem EncodeLegal.crc7Init : EncodeLegal.Statement .crc7Init := by
  unfold EncodeLegal.Statement
  decide

theorem EncodeLegal.crc7Update (d : BitVec 8) : EncodeLegal.Statement (.crc7Update d) := by
  have h : (Op.crc7Update).mask = formatC 0xF#4 0x3FF#10 0x1FF#9 1#1 0x00#8 := by decide
  simp only [EncodeLegal.Statement, encode, Instr.op, h, formatC_and, BitVec.and_zero, BitVec.zero_and]
  decide

theorem EncodeLegal.crc7Buf (n : BitVec 10) : EncodeLegal.Statement (.crc7Buf n) := by
  have h : (Op.crc7Buf).mask = formatC 0xF#4 0#10 0x1FF#9 1#1 0xFF#8 := by decide
  simp only [EncodeLegal.Statement, encode, Instr.op, h, formatC_and, BitVec.and_zero, BitVec.zero_and]
  decide

theorem EncodeLegal.crc16Init : EncodeLegal.Statement .crc16Init := by
  unfold EncodeLegal.Statement
  decide

theorem EncodeLegal.crc16Update (d : BitVec 8) : EncodeLegal.Statement (.crc16Update d) := by
  have h : (Op.crc16Update).mask = formatC 0xF#4 0x3FF#10 0x1FF#9 1#1 0x00#8 := by decide
  simp only [EncodeLegal.Statement, encode, Instr.op, h, formatC_and, BitVec.and_zero, BitVec.zero_and]
  decide

theorem EncodeLegal.crc16Buf (n : BitVec 10) : EncodeLegal.Statement (.crc16Buf n) := by
  have h : (Op.crc16Buf).mask = formatC 0xF#4 0#10 0x1FF#9 1#1 0xFF#8 := by decide
  simp only [EncodeLegal.Statement, encode, Instr.op, h, formatC_and, BitVec.and_zero, BitVec.zero_and]
  decide

theorem EncodeLegal.bufWrite (i : BitVec 9) (d : BitVec 8) : EncodeLegal.Statement (.bufWrite i d) := by
  have h : (Op.bufWrite).mask = formatC 0xF#4 0x3FF#10 0#9 1#1 0x00#8 := by decide
  simp only [EncodeLegal.Statement, encode, Instr.op, h, formatC_and, BitVec.and_zero, BitVec.zero_and]
  decide

theorem EncodeLegal.bufRead (i : BitVec 9) : EncodeLegal.Statement (.bufRead i) := by
  have h : (Op.bufRead).mask = formatC 0xF#4 0x3FF#10 0#9 1#1 0xFF#8 := by decide
  simp only [EncodeLegal.Statement, encode, Instr.op, h, formatC_and, BitVec.and_zero, BitVec.zero_and]
  decide

theorem EncodeLegal.sendBlock (n : BitVec 10) : EncodeLegal.Statement (.sendBlock n) := by
  have h : (Op.sendBlock).mask = formatC 0xF#4 0#10 0x1FF#9 1#1 0xFF#8 := by decide
  simp only [EncodeLegal.Statement, encode, Instr.op, h, formatC_and, BitVec.and_zero, BitVec.zero_and]
  decide

theorem EncodeLegal.receiveBlock (n : BitVec 10) : EncodeLegal.Statement (.receiveBlock n) := by
  have h : (Op.receiveBlock).mask = formatC 0xF#4 0#10 0x1FF#9 1#1 0xFF#8 := by decide
  simp only [EncodeLegal.Statement, encode, Instr.op, h, formatC_and, BitVec.and_zero, BitVec.zero_and]
  decide

theorem EncodeLegal.clrStatus : EncodeLegal.Statement .clrStatus := by
  unfold EncodeLegal.Statement
  decide

theorem EncodeOpcode.crc7Init : EncodeOpcode.Statement .crc7Init := opField_formatC ..
theorem EncodeOpcode.crc7Update (d : BitVec 8) : EncodeOpcode.Statement (.crc7Update d) := opField_formatC ..
theorem EncodeOpcode.crc7Buf (n : BitVec 10) : EncodeOpcode.Statement (.crc7Buf n) := opField_formatC ..
theorem EncodeOpcode.crc16Init : EncodeOpcode.Statement .crc16Init := opField_formatC ..
theorem EncodeOpcode.crc16Update (d : BitVec 8) : EncodeOpcode.Statement (.crc16Update d) := opField_formatC ..
theorem EncodeOpcode.crc16Buf (n : BitVec 10) : EncodeOpcode.Statement (.crc16Buf n) := opField_formatC ..
theorem EncodeOpcode.bufWrite (i : BitVec 9) (d : BitVec 8) : EncodeOpcode.Statement (.bufWrite i d) := opField_formatC ..
theorem EncodeOpcode.bufRead (i : BitVec 9) : EncodeOpcode.Statement (.bufRead i) := opField_formatC ..
theorem EncodeOpcode.sendBlock (n : BitVec 10) : EncodeOpcode.Statement (.sendBlock n) := opField_formatC ..
theorem EncodeOpcode.receiveBlock (n : BitVec 10) : EncodeOpcode.Statement (.receiveBlock n) := opField_formatC ..
theorem EncodeOpcode.clrStatus : EncodeOpcode.Statement .clrStatus := opField_formatC ..

end Sys2Proof.Laws
end

