-- ==== Sys2Proof/Laws/Step.lean ====
section
/-! SUPPORT. What a step can do, said once: acceptance, the block's step, one input, and runs of several steps. -/

namespace Sys2Proof.Machine

/-! ## Acceptance -/

theorem accept_of_idle (body : State → State) {s : State} (h : s.busy = false) : accept body s = .next (body s) := by
  simp [accept, h]

theorem accept_of_busy (body : State → State) {s : State} (h : s.busy = true) : accept body s = .next (dropCommand s) := by
  simp [accept, h]

/-- Everything acceptance can answer: the busy block drops, the idle one takes the body's state. -/
theorem accept_cases {body : State → State} {s t : State} (h : accept body s = .next t) :
    (s.busy = true ∧ t = dropCommand s) ∨ (s.busy = false ∧ t = body s) := by
  cases hb : s.busy with
  | false =>
    rw [accept_of_idle body hb] at h
    exact .inr ⟨rfl, by cases h; rfl⟩
  | true =>
    rw [accept_of_busy body hb] at h
    exact .inl ⟨rfl, by cases h; rfl⟩

/-! ## Commands -/

theorem exec_of_busy (i : Instr) {s : State} (h : s.busy = true) : exec i s = .next (dropCommand s) := by
  cases i <;> simp [exec, execCrc7Init, execCrc7Update, execCrc7Buf, execCrc16Init, execCrc16Update, execCrc16Buf,
    execBufWrite, execBufRead, execSendBlock, execReceiveBlock, execClrStatus, accept_of_busy, h]

/-- Everything a command can do: the busy block drops it, and the idle one does what its rule says. -/
theorem exec_cases {i : Instr} {s t : State} (h : exec i s = .next t) :
    (s.busy = true ∧ t = dropCommand s) ∨
    (s.busy = false ∧
      match i with
      | .crc7Init => t = finish .ok { s with c7 := crc7Start }
      | .crc7Update d => t = finish .ok { s with c7 := crc7Byte s.c7 d }
      | .crc7Buf n =>
        (n.toNat ≤ 512 ∧ t = finish .ok { s with c7 := crc7 (s.bufBytes n.toNat) }) ∨
        (512 < n.toNat ∧ t = finish .range s)
      | .crc16Init => t = finish .ok { s with c16 := crc16Start }
      | .crc16Update d => t = finish .ok { s with c16 := crc16Byte s.c16 d }
      | .crc16Buf n =>
        (n.toNat ≤ 512 ∧ t = finish .ok { s with c16 := crc16 (s.bufBytes n.toNat) }) ∨
        (512 < n.toNat ∧ t = finish .range s)
      | .bufWrite i d => t = finish .ok { s with buf := s.buf.write i.toNat d, valid := false }
      | .bufRead i => t = finish .ok { s with rdata := s.bufByte i.toNat }
      | .sendBlock n =>
        (1 ≤ n.toNat ∧ n.toNat ≤ 512 ∧
          t = { s with c16 := crc16 (s.bufBytes n.toNat), drt := drtNone, len := n, idx := 0#10, cnt := 0, phase := .txStart }) ∨
        (¬ (1 ≤ n.toNat ∧ n.toNat ≤ 512) ∧ t = finish .range s)
      | .receiveBlock n =>
        (1 ≤ n.toNat ∧ n.toNat ≤ 512 ∧
          t = { s with
            valid := false, c16 := crc16Start, rxcrc := 0x0000#16, len := n, idx := 0#10, cnt := 0, phase := .rxStart }) ∨
        (¬ (1 ≤ n.toNat ∧ n.toNat ≤ 512) ∧ t = finish .range { s with valid := false })
      | .clrStatus => t = finish .ok { s with overrun := false }) := by
  cases i <;>
    simp only [exec, execCrc7Init, execCrc7Update, execCrc7Buf, execCrc16Init, execCrc16Update, execCrc16Buf,
      execBufWrite, execBufRead, execSendBlock, execReceiveBlock, execClrStatus] at h <;>
    obtain ⟨hb, ht⟩ | ⟨hb, ht⟩ := accept_cases h
  all_goals first | exact .inl ⟨hb, ht⟩ | refine .inr ⟨hb, ?_⟩
  case crc7Buf n =>
    dsimp only at ht ⊢
    split at ht
    · exact .inl ⟨(crcLenInRange_iff _).1 ‹_›, ht⟩
    · exact .inr ⟨by have := mt (crcLenInRange_iff _).2 ‹_›; omega, ht⟩
  case crc16Buf n =>
    dsimp only at ht ⊢
    split at ht
    · exact .inl ⟨(crcLenInRange_iff _).1 ‹_›, ht⟩
    · exact .inr ⟨by have := mt (crcLenInRange_iff _).2 ‹_›; omega, ht⟩
  case sendBlock n =>
    dsimp only at ht ⊢
    split at ht
    · exact .inl ⟨((blockLenInRange_iff _).1 ‹_›).1, ((blockLenInRange_iff _).1 ‹_›).2, ht⟩
    · exact .inr ⟨mt (blockLenInRange_iff _).2 ‹_›, ht⟩
  case receiveBlock n =>
    dsimp only at ht ⊢
    split at ht
    · exact .inl ⟨((blockLenInRange_iff _).1 ‹_›).1, ((blockLenInRange_iff _).1 ‹_›).2, ht⟩
    · exact .inr ⟨mt (blockLenInRange_iff _).2 ‹_›, ht⟩
  all_goals exact ht

/-! ## The sequencer -/

theorem phaseStep_of_idle (r : Byte) {s : State} (h : s.phase = .idle) : phaseStep r s = s := by simp [phaseStep, h]

/-- What no phase changes, whatever byte is received: C7, RDATA, OVERRUN, LEN and the model's own fields. -/
theorem phaseStep_keeps (r : Byte) (s : State) :
    (phaseStep r s).c7 = s.c7 ∧ (phaseStep r s).rdata = s.rdata ∧ (phaseStep r s).overrun = s.overrun ∧
    (phaseStep r s).len = s.len ∧ (phaseStep r s).limits = s.limits ∧ (phaseStep r s).inputs = s.inputs ∧
    (phaseStep r s).card = s.card ∧ (phaseStep r s).xferDraw = s.xferDraw ∧
    (phaseStep r s).bufDraw = s.bufDraw ∧ (phaseStep r s).trace = s.trace ∧ (phaseStep r s).selected = s.selected := by
  unfold phaseStep rxStart rxData rxCrcHi rxCrcLo txStart txData txCrcHi txCrcLo txToken txBusy finish
  cases s.phase <;> dsimp only <;> repeat' split
  all_goals exact ⟨rfl, rfl, rfl, rfl, rfl, rfl, rfl, rfl, rfl, rfl, rfl⟩

@[simp] theorem phaseStep_c7 (r : Byte) (s : State) : (phaseStep r s).c7 = s.c7 := (phaseStep_keeps r s).1
@[simp] theorem phaseStep_rdata (r : Byte) (s : State) : (phaseStep r s).rdata = s.rdata := (phaseStep_keeps r s).2.1
@[simp] theorem phaseStep_overrun (r : Byte) (s : State) : (phaseStep r s).overrun = s.overrun := (phaseStep_keeps r s).2.2.1
@[simp] theorem phaseStep_len (r : Byte) (s : State) : (phaseStep r s).len = s.len := (phaseStep_keeps r s).2.2.2.1
@[simp] theorem phaseStep_limits (r : Byte) (s : State) : (phaseStep r s).limits = s.limits := (phaseStep_keeps r s).2.2.2.2.1
@[simp] theorem phaseStep_inputs (r : Byte) (s : State) : (phaseStep r s).inputs = s.inputs := (phaseStep_keeps r s).2.2.2.2.2.1
@[simp] theorem phaseStep_card (r : Byte) (s : State) : (phaseStep r s).card = s.card := (phaseStep_keeps r s).2.2.2.2.2.2.1
@[simp] theorem phaseStep_xferDraw (r : Byte) (s : State) : (phaseStep r s).xferDraw = s.xferDraw := (phaseStep_keeps r s).2.2.2.2.2.2.2.1
@[simp] theorem phaseStep_bufDraw (r : Byte) (s : State) : (phaseStep r s).bufDraw = s.bufDraw := (phaseStep_keeps r s).2.2.2.2.2.2.2.2.1
@[simp] theorem phaseStep_trace (r : Byte) (s : State) : (phaseStep r s).trace = s.trace := (phaseStep_keeps r s).2.2.2.2.2.2.2.2.2.1
@[simp] theorem phaseStep_selected (r : Byte) (s : State) : (phaseStep r s).selected = s.selected := (phaseStep_keeps r s).2.2.2.2.2.2.2.2.2.2

@[simp] theorem onReply_c7 (o : XferResult) (s : State) : (onReply o s).c7 = s.c7 := by
  cases o <;> simp [onReply]

@[simp] theorem onReply_rdata (o : XferResult) (s : State) : (onReply o s).rdata = s.rdata := by
  cases o <;> simp [onReply]

@[simp] theorem onReply_overrun (o : XferResult) (s : State) : (onReply o s).overrun = s.overrun := by
  cases o <;> simp [onReply]

@[simp] theorem onReply_len (o : XferResult) (s : State) : (onReply o s).len = s.len := by
  cases o <;> simp [onReply]

@[simp] theorem onReply_limits (o : XferResult) (s : State) : (onReply o s).limits = s.limits := by
  cases o <;> simp [onReply]

@[simp] theorem onReply_inputs (o : XferResult) (s : State) : (onReply o s).inputs = s.inputs := by
  cases o <;> simp [onReply]

@[simp] theorem onReply_card (o : XferResult) (s : State) : (onReply o s).card = s.card := by
  cases o <;> simp [onReply]

@[simp] theorem onReply_xferDraw (o : XferResult) (s : State) : (onReply o s).xferDraw = s.xferDraw := by
  cases o <;> simp [onReply]

@[simp] theorem onReply_bufDraw (o : XferResult) (s : State) : (onReply o s).bufDraw = s.bufDraw := by
  cases o <;> simp [onReply]

@[simp] theorem onReply_selected (o : XferResult) (s : State) : (onReply o s).selected = s.selected := by
  cases o <;> simp [onReply]

@[simp] theorem onReply_trace (o : XferResult) (s : State) : (onReply o s).trace = s.trace := by
  cases o <;> simp [onReply]

theorem blockStep_of_idle {s : State} (h : s.phase = .idle) : blockStep s = .next s := by simp [blockStep, h]

/-- The block's step while it is busy, chip-select is asserted, and IDX is an index of BUF where the phase uses it. -/
theorem blockStep_of_busy {s : State} (h : s.phase ≠ .idle) (hs : s.selected = true)
    (hi : s.phase.movesPayload = true → s.idx.toNat < bufSize) :
    blockStep s = .next (onReply s.reply (afterXfer (txByte s) s)) := by
  unfold blockStep
  rw [if_neg h, if_neg (by simp [hs]), if_neg fun hc => Nat.not_lt.2 hc.2 (hi hc.1)]

/-- The block's step outside the chip-select bracket. -/
theorem blockStep_of_deselected {s : State} (h : s.phase ≠ .idle) (hs : s.selected = false) :
    blockStep s = .refused .chipSelectNotAsserted := by
  unfold blockStep
  rw [if_neg h, if_pos hs]

/-- Everything the block's step can answer with a next state. -/
theorem blockStep_cases {s t : State} (h : blockStep s = .next t) :
    (s.phase = .idle ∧ t = s) ∨
    (s.phase ≠ .idle ∧ s.selected = true ∧ s.reply = .unavail ∧ t = finish .busUnavailable (afterXfer (txByte s) s)) ∨
    (s.phase ≠ .idle ∧ s.selected = true ∧ ∃ r, s.reply = .ok r ∧ t = phaseStep r (afterXfer (txByte s) s)) := by
  unfold blockStep at h
  split at h
  · exact .inl ⟨‹_›, by cases h; rfl⟩
  · split at h
    · cases h
    · have hs : s.selected = true := by simpa using ‹¬ s.selected = false›
      split at h
      · cases h
      · cases h
        cases hr : s.reply with
        | ok r => exact .inr (.inr ⟨‹_›, hs, r, rfl, rfl⟩)
        | unavail => exact .inr (.inl ⟨‹_›, hs, rfl, rfl⟩)

/-- The block's step faults only at an index outside BUF. -/
theorem blockStep_fault {s : State} {f : Fault} (h : blockStep s = .fault f) :
    s.phase.movesPayload = true ∧ bufSize ≤ s.idx.toNat := by
  unfold blockStep at h
  repeat' split at h
  all_goals first | assumption | cases h

/-- The block's step is refused only outside the chip-select bracket. -/
theorem blockStep_refused {s : State} {why : Refusal} (h : blockStep s = .refused why) :
    s.phase ≠ .idle ∧ s.selected = false ∧ why = .chipSelectNotAsserted := by
  unfold blockStep at h
  split at h
  · cases h
  · split at h
    · cases h
      exact ⟨‹_›, ‹_›, rfl⟩
    · split at h <;> cases h

/-- The sequencer does not look at the list of inputs. -/
theorem phaseStep_setInputs (r : Byte) (s : State) (is : List Input) :
    phaseStep r { s with inputs := is } = { phaseStep r s with inputs := is } := by
  cases hp : s.phase <;>
    simp only [phaseStep, hp, rxStart, rxData, rxCrcHi, rxCrcLo, txStart, txData, txCrcHi, txCrcLo, txToken, txBusy, finish] <;>
    repeat' split
  all_goals rfl

/-- The sequencer does not look at OVERRUN. -/
theorem phaseStep_setOverrun (r : Byte) (s : State) (b : Bool) :
    phaseStep r { s with overrun := b } = { phaseStep r s with overrun := b } := by
  cases hp : s.phase <;>
    simp only [phaseStep, hp, rxStart, rxData, rxCrcHi, rxCrcLo, txStart, txData, txCrcHi, txCrcLo, txToken, txBusy, finish] <;>
    repeat' split
  all_goals rfl

/-- The block's step is the same whatever inputs are still to come. -/
theorem blockStep_setInputs {s t : State} (is : List Input) (h : blockStep s = .next t) :
    blockStep { s with inputs := is } = .next { t with inputs := is } := by
  unfold blockStep at h ⊢
  dsimp only
  split at h
  · cases h
    rw [if_pos ‹_›]
  · rw [if_neg ‹_›]
    split at h
    · cases h
    · rw [if_neg ‹_›]
      split at h
      · cases h
      · cases h
        rw [if_neg ‹_›]
        show Host.Outcome.next (onReply s.reply { afterXfer (txByte s) s with inputs := is }) = _
        cases s.reply with
        | unavail => rfl
        | ok r => exact congrArg Host.Outcome.next (phaseStep_setInputs r (afterXfer (txByte s) s) is)

/-- The block's step is the same whatever OVERRUN is. -/
theorem blockStep_setOverrun {s t : State} (b : Bool) (h : blockStep s = .next t) :
    blockStep { s with overrun := b } = .next { t with overrun := b } := by
  unfold blockStep at h ⊢
  dsimp only
  split at h
  · cases h
    rw [if_pos ‹_›]
  · rw [if_neg ‹_›]
    split at h
    · cases h
    · rw [if_neg ‹_›]
      split at h
      · cases h
      · cases h
        rw [if_neg ‹_›]
        show Host.Outcome.next (onReply s.reply { afterXfer (txByte s) s with overrun := b }) = _
        cases s.reply with
        | unavail => rfl
        | ok r => exact congrArg Host.Outcome.next (phaseStep_setOverrun r (afterXfer (txByte s) s) b)

/-! ## The invariant and the trace -/

/-- The invariant does not look at OVERRUN, RESULT, or what stands outside the block. -/
theorem inv_setOutside {s : State} (h : s.Inv) (ov : Bool) (re : ResultCode) (is : List Input) (card : List XferResult)
    (x : Nat) (sel : Bool) (tr : List Event) :
    ({ s with
      overrun := ov, result := re, inputs := is, card := card, xferDraw := x, selected := sel, trace := tr } : State).Inv :=
  ⟨h.1, h.2, h.3, h.4, h.5, h.6, h.7, h.8⟩

theorem transmitted_append (es fs : List Event) : transmitted (es ++ fs) = transmitted es ++ transmitted fs := by
  induction es with
  | nil => rfl
  | cons e es ih => cases e <;> simp [transmitted, ih]

/-! ## Steps and runs -/

theorem step_of_nil {s : State} (h : s.inputs = []) : step s = blockStep s := by simp [step, h]

theorem step_of_cons {s : State} {e : Input} {rest : List Input} (h : s.inputs = e :: rest) :
    step s = onInput e { s with inputs := rest } := by simp [step, h]

/-- Everything a step can do when it answers a next state: a command carried out, an illegal word recorded, the block's own
step, a reset, or an event that touches at most OVERRUN, the level of chip-select, the inputs and the trace. -/
theorem step_cases {s t : State} (h : step s = .next t) :
    (∃ w rest i, s.inputs = .hostWrite 0#4 w :: rest ∧ s.busy = false ∧ decode w = .ok i ∧
      exec i { s with inputs := rest } = .next t) ∨
    (∃ w rest e, s.inputs = .hostWrite 0#4 w :: rest ∧ s.busy = false ∧ decode w = .error e ∧
      t = { s with inputs := rest, result := .illegal }) ∨
    (s.busy = true ∧ ∃ rest, (s.inputs = [] ∧ rest = [] ∨ s.inputs = .blockStep :: rest) ∧
      blockStep { s with inputs := rest } = .next t) ∨
    (∃ rest, s.inputs = .reset :: rest ∧ t = resetBlock { s with inputs := rest }) ∨
    (∃ is tr ov sel, t = { s with inputs := is, trace := tr, overrun := ov, selected := sel } ∧
      (ov = s.overrun ∨ (ov = true ∧ s.busy = true)) ∧
      (sel = s.selected ∨ ∃ rest, s.inputs = .chipSelect sel :: rest ∧ (s.busy = true → sel = true))) := by
  have quiet : ∀ (es : List Input) is tr, t = { s with inputs := is, trace := tr } →
      ∃ is tr ov sel, t = { s with inputs := is, trace := tr, overrun := ov, selected := sel } ∧
        (ov = s.overrun ∨ (ov = true ∧ s.busy = true)) ∧
        (sel = s.selected ∨ ∃ rest, es = .chipSelect sel :: rest ∧ (s.busy = true → sel = true)) :=
    fun _ is tr ht => ⟨is, tr, s.overrun, s.selected, ht, .inl rfl, .inl rfl⟩
  cases hi : s.inputs with
  | nil =>
    rw [step_of_nil hi] at h
    cases hb : s.busy with
    | false =>
      rw [blockStep_of_idle ((busy_eq_false_iff s).1 hb)] at h
      cases h
      exact .inr (.inr (.inr (.inr (hb ▸ quiet _ s.inputs s.trace rfl))))
    | true =>
      have hs : ({ s with inputs := [] } : State) = s := by cases s; cases hi; rfl
      exact .inr (.inr (.inl ⟨rfl, [], .inl ⟨rfl, rfl⟩, hs.symm ▸ h⟩))
  | cons e rest =>
    rw [step_of_cons hi] at h
    cases e with
    | hostWrite n v =>
      by_cases hn : n = 0#4
      · subst hn
        cases hd : decode v with
        | ok i =>
          simp only [onInput, hostWrite, commandPort, hd, if_true] at h
          cases hb : s.busy with
          | false => exact .inl ⟨v, rest, i, rfl, rfl, hd, h⟩
          | true =>
            rw [exec_of_busy i (s := { s with inputs := rest }) hb] at h
            cases h
            exact .inr (.inr (.inr (.inr ⟨rest, s.trace, true, s.selected, rfl, .inr ⟨rfl, rfl⟩, .inl rfl⟩)))
        | error e =>
          simp only [onInput, hostWrite, commandPort, hd, if_true] at h
          rcases accept_cases h with ⟨hb, rfl⟩ | ⟨hb, rfl⟩
          · exact .inr (.inr (.inr (.inr ⟨rest, s.trace, true, s.selected, rfl, .inr ⟨rfl, hb⟩, .inl rfl⟩)))
          · refine .inr (.inl ⟨v, rest, e, rfl, hb, hd, ?_⟩)
            have hp : s.phase = .idle := (busy_eq_false_iff s).1 hb
            simp [finish, hp]
      · simp only [onInput, hostWrite, if_neg hn] at h
        cases h
        exact .inr (.inr (.inr (.inr (quiet _ rest s.trace rfl))))
    | hostRead n =>
      cases h
      exact .inr (.inr (.inr (.inr (quiet _ _ _ rfl))))
    | wait =>
      cases h
      refine .inr (.inr (.inr (.inr ?_)))
      by_cases hw : ({ s with inputs := rest } : State).statusWord.getLsbD 0 = true
      · exact quiet _ (.blockStep :: .wait :: rest) (s.trace ++ [.hostRead 0#4 s.statusWord]) (by rw [hostWait, if_pos hw]; rfl)
      · exact quiet _ rest (s.trace ++ [.hostRead 0#4 s.statusWord]) (by rw [hostWait, if_neg hw]; rfl)
    | blockStep =>
      cases hb : s.busy with
      | false =>
        have h' : blockStep { s with inputs := rest } = .next t := h
        rw [blockStep_of_idle (s := { s with inputs := rest }) ((busy_eq_false_iff s).1 hb)] at h'
        cases h'
        exact .inr (.inr (.inr (.inr (hb ▸ quiet _ rest s.trace rfl))))
      | true => exact .inr (.inr (.inl ⟨rfl, rest, .inr rfl, h⟩))
    | reset =>
      cases h
      exact .inr (.inr (.inr (.inl ⟨rest, rfl, rfl⟩)))
    | hostExchange =>
      simp only [onInput] at h
      split at h <;> cases h
      exact .inr (.inr (.inr (.inr (quiet _ rest s.trace rfl))))
    | transportReopen =>
      simp only [onInput] at h
      split at h <;> cases h
      exact .inr (.inr (.inr (.inr (quiet _ rest s.trace rfl))))
    | chipSelect asserted =>
      simp only [onInput] at h
      split at h <;> cases h
      rename_i hc
      refine .inr (.inr (.inr (.inr ⟨rest, s.trace, s.overrun, asserted, rfl, .inl rfl, .inr ⟨rest, rfl, fun hb => ?_⟩⟩)))
      have hb' : ({ s with inputs := rest } : State).busy = true := hb
      simpa [hb'] using hc
    | secondHostAccess => simp [onInput] at h

theorem run_zero (s : State) : Host.Core.run Sys2Proof.core 0 s = .next s := rfl

theorem run_succ_of_next {s t : State} (k : Nat) (h : step s = .next t) :
    Host.Core.run Sys2Proof.core (k + 1) s = Host.Core.run Sys2Proof.core k t := by
  have h' : Sys2Proof.core.step s = .next t := h
  simp [Host.Core.run, h']

/-- Runs in a row make one run. -/
theorem run_add {s t : State} {k : Nat} (m : Nat) (h : Host.Core.run Sys2Proof.core k s = .next t) :
    Host.Core.run Sys2Proof.core (k + m) s = Host.Core.run Sys2Proof.core m t := by
  induction k generalizing s with
  | zero =>
    cases h
    simp
  | succ k ih =>
    cases hs : step s with
    | next u =>
      rw [run_succ_of_next k hs] at h
      rw [Nat.add_right_comm, run_succ_of_next (k + m) hs]
      exact ih h
    | fault r =>
      have h' : Sys2Proof.core.step s = .fault r := hs
      simp [Host.Core.run, h'] at h
    | refused r =>
      have h' : Sys2Proof.core.step s = .refused r := hs
      simp [Host.Core.run, h'] at h

end Sys2Proof.Machine
end

