-- ==== Sys2Proof/Tests/Slice0.lean ====
section
/-! SUPPORT. Tests. The expected values are those of 95_test_vectors.md (named V7, V16, VB, VE, VR, VS after its tables) or
are worked out from the rule cited. After them, for every statement with hypotheses, a state and operands that meet them. -/

open Sys2Proof Sys2Proof.Machine

namespace Sys2Proof.Tests

-- One theorem after another: elaborated side by side, the many small evaluations here ask for too many threads.
set_option Elab.async false

/-! ## Small states -/

/-- The idle block after reset, with poll limits of 2 in place of the opaque ones. -/
def idleState : State := { State.reset with limits := ⟨2, 2, 2⟩ }

/-- The idle block with these bytes in BUF from index 0. -/
def withBytes (ds : List Byte) : State := { idleState with buf := ds.zipIdx.map fun p => (p.2, p.1) }

/-- The block in a phase of a block command of one byte. -/
def inPhase (p : Phase) (card : List XferResult) : State := { withBytes [0x01#8] with phase := p, len := 1#10, card := card }

/-- The block in that phase with chip-select deasserted. -/
def deselected (p : Phase) : State := { inPhase p [] with selected := false }

/-- The next state, where there is one. -/
def nextOf (o : Host.Outcome State Fault Refusal) : Option State :=
  match o with
  | .next t => some t
  | .fault _ => none
  | .refused _ => none

/-- The next state of a command. -/
def after (i : Instr) (s : State) : Option State := nextOf (exec i s)

/-- The state after so many steps. -/
def afterRun (k : Nat) (s : State) : Option State := nextOf (Host.Core.run Sys2Proof.core k s)

/-! ## Decoding: words written out bit by bit from R60 and R66 -/

theorem test_decode_crc7Init : decode 0b0001_0000000000_000000000_0_00000000#32 = .ok .crc7Init := by rfl
theorem test_decode_crc7Update : decode 0b0010_0000000000_000000000_0_01000000#32 = .ok (.crc7Update 0x40#8) := by rfl
theorem test_decode_crc7Buf : decode 0b0011_0000000101_000000000_0_00000000#32 = .ok (.crc7Buf 5#10) := by rfl
theorem test_decode_crc16Init : decode 0b0100_0000000000_000000000_0_00000000#32 = .ok .crc16Init := by rfl
theorem test_decode_crc16Update : decode 0b0101_0000000000_000000000_0_00010010#32 = .ok (.crc16Update 0x12#8) := by rfl
theorem test_decode_crc16Buf : decode 0b0110_1000000000_000000000_0_00000000#32 = .ok (.crc16Buf 512#10) := by rfl
theorem test_decode_bufWrite : decode 0b0111_0000000000_111111111_0_11111111#32 = .ok (.bufWrite 511#9 0xFF#8) := by rfl
theorem test_decode_bufRead : decode 0b1000_0000000000_111111111_0_00000000#32 = .ok (.bufRead 511#9) := by rfl
theorem test_decode_sendBlock : decode 0b1001_1000000000_000000000_0_00000000#32 = .ok (.sendBlock 512#10) := by rfl
theorem test_decode_receiveBlock : decode 0b1010_0000010000_000000000_0_00000000#32 = .ok (.receiveBlock 16#10) := by rfl
theorem test_decode_clrStatus : decode 0b1011_0000000000_000000000_0_00000000#32 = .ok .clrStatus := by rfl

/-- VE.1 to VE.4, VE.6, VE.15: reserved opcodes and stray bits, each refused by name. -/
theorem test_decode_refusals :
    decode 0x00000000#32 = .error (.reservedOpcode 0x0#4) ∧ decode 0xC0000000#32 = .error (.reservedOpcode 0xC#4) ∧
    decode 0xF0000000#32 = .error (.reservedOpcode 0xF#4) ∧ decode 0x20000140#32 = .error (.strayBits .crc7Update) ∧
    decode 0x30000200#32 = .error (.strayBits .crc7Buf) ∧ decode 0x9000000F#32 = .error (.strayBits .sendBlock) :=
  ⟨rfl, rfl, rfl, rfl, rfl, rfl⟩

/-- A table word longer than a command word is no command (R60, R70). -/
theorem test_decodeTableWord_too_long :
    decodeTableWord 32 0x20000040 = some (.crc7Update 0x40#8) ∧ decodeTableWord 40 (0x20000040 + 2 ^ 32) = none :=
  ⟨rfl, rfl⟩

/-- The first step from reset runs the command laid down for it. -/
theorem test_first_step_runs_the_word :
    (nextOf (step (State.reset.withFetchWord 32 0x500000FF))).map (·.c16) = some (crc16Byte 0x0000#16 0xFF#8) := by decide

/-! ## Well-formedness: an ill-formed term for each check (R67; R71, R72) -/

theorem test_wellFormed_refuses_lengths :
    (Instr.crc7Buf 513#10).wellFormed = false ∧ (Instr.crc16Buf 513#10).wellFormed = false ∧
    (Instr.sendBlock 0#10).wellFormed = false ∧ (Instr.sendBlock 513#10).wellFormed = false ∧
    (Instr.receiveBlock 0#10).wellFormed = false ∧ (Instr.receiveBlock 513#10).wellFormed = false := by decide

theorem test_wellFormed_takes_the_ends :
    (Instr.crc7Buf 0#10).wellFormed = true ∧ (Instr.crc16Buf 512#10).wellFormed = true ∧
    (Instr.sendBlock 1#10).wellFormed = true ∧ (Instr.receiveBlock 512#10).wellFormed = true := by decide

theorem test_assembler_refuses_operands :
    assemble (.crc7Upd 256) = none ∧ assemble (.crc7Buf 1024) = none ∧ assemble (.crc16Upd 256) = none ∧
    assemble (.crc16Buf 1024) = none ∧ assemble (.bufWr 512 0) = none ∧ assemble (.bufWr 0 256) = none ∧
    assemble (.bufRd 512) = none ∧ assemble (.blkSend 1024) = none ∧ assemble (.blkRecv 1024) = none ∧
    assemble (.cmd 4294967296) = none ∧ assemble (.rd 16) = none := by decide

theorem test_assembler_refuses_lists :
    assemble (.crc7Frame 0 0 0 0 256) = none ∧ assemble (.crc16Bytes []) = none ∧ assemble (.crc16Bytes [256]) = none ∧
    assemble (.bufFill 0 []) = none ∧ assemble (.bufFill 511 [0, 0]) = none ∧ assemble (.bufFill 0 [256]) = none := by decide

/-- The lines of R71 read from characters, in either case, with decimal and hexadecimal numbers. -/
theorem test_assembler_reads_lines :
    readLine "crc7.upd 0x40".toList = some (.crc7Upd 64) ∧ readLine " BUF.WR 3 , 0xAA".toList = some (.bufWr 3 170) ∧
    readLine "rd CRC7T".toList = some (.rdName .crc7t) ∧ readLine "blk.send".toList = none := by decide

/-- V7.41, VB.1, VR.1: the words beside the assembler lines. -/
theorem test_assembler_words :
    assembleText ["crc7.upd 0x40", "buf.wr 3, 0xAA", "blk.recv 2", "rd CRC7T"] =
      some [.hostWrite 0#4 0x20000040#32, .hostWrite 0#4 0x700006AA#32, .hostWrite 0#4 0xA0080000#32, .hostRead 2#4] := by
  decide

/-! ## The commands -/

/-- V7.40. -/
theorem test_crc7Init :
    (after .crc7Init { idleState with c7 := 0x4A#7, result := .range }).map (fun t => (t.c7, t.result, t.readReg 2#4)) =
      some (0x00#7, .ok, 0x00000001#32) := by decide

/-- V7.41 to V7.44. -/
theorem test_crc7Update :
    [(0x00#7, 0x40#8), (0x00#7, 0x80#8), (0x7F#7, 0xFF#8), (0x4A#7, 0x00#8)].map
      (fun p => (after (.crc7Update p.2) { idleState with c7 := p.1 }).map (·.c7)) =
      [some 0x64#7, some 0x41#7, some 0x09#7, some 0x7C#7] := by decide

/-- V7.45. -/
theorem test_crc7Buf :
    (after (.crc7Buf 5#10) { withBytes [0x48#8, 0x00#8, 0x00#8, 0x01#8, 0xAA#8] with c7 := 0x55#7 }).map (·.readReg 2#4) =
      some 0x00000087#32 := by decide +kernel

/-- V7.46, V7.47. -/
theorem test_crc7Buf_ends :
    (after (.crc7Buf 0#10) { idleState with c7 := 0x55#7 }).map (fun t => (t.c7, t.result)) = some (0x00#7, .ok) ∧
    (after (.crc7Buf 513#10) { idleState with c7 := 0x55#7 }).map (fun t => (t.c7, t.statusWord)) =
      some (0x55#7, 0x00000050#32) := by decide

/-- V16.40, V16.49. -/
theorem test_crc16Init :
    (after .crc16Init { idleState with c16 := 0x7FA1#16, c7 := 0x4A#7 }).map (fun t => (t.c16, t.c7)) =
      some (0x0000#16, 0x4A#7) := by decide

/-- V16.41 to V16.43. -/
theorem test_crc16Update :
    [(0x0000#16, 0x12#8), (0x3273#16, 0x34#8), (0x0000#16, 0x01#8), (0xFFFF#16, 0xFF#8)].map
      (fun p => (after (.crc16Update p.2) { idleState with c16 := p.1 }).map (·.c16)) =
      [some 0x3273#16, some 0x13C6#16, some 0x1021#16, some 0xFF00#16] := by decide

/-- V16.45. -/
theorem test_crc16Buf :
    (after (.crc16Buf 5#10) (withBytes [0x48#8, 0x00#8, 0x00#8, 0x01#8, 0xAA#8])).map (·.c16) = some 0x34D4#16 := by decide +kernel

/-- V16.46, V16.47. -/
theorem test_crc16Buf_ends :
    (after (.crc16Buf 0#10) { idleState with c16 := 0x1234#16 }).map (fun t => (t.c16, t.result)) = some (0x0000#16, .ok) ∧
    (after (.crc16Buf 1023#10) { idleState with c16 := 0x1234#16 }).map (fun t => (t.c16, t.result)) =
      some (0x1234#16, .range) := by decide

/-- VB.1, at an index that was written before. -/
theorem test_bufWrite :
    (after (.bufWrite 3#9 0xAA#8) { withBytes [1#8, 2#8, 3#8, 4#8, 5#8] with valid := true }).map
      (fun t => (t.buf.read? 3, t.buf.read? 4, t.valid, t.result)) = some (some 0xAA#8, some 5#8, false, .ok) := by decide

/-- VB.3, VB.4. -/
theorem test_bufRead :
    (after (.bufRead 511#9) { idleState with buf := [(511, 0x5A#8)] }).map (·.readReg 6#4) = some 0x0000005A#32 ∧
    (after (.bufRead 0#9) { withBytes [0x12#8] with valid := true }).map (fun t => (t.rdata, t.valid)) =
      some (0x12#8, true) := by decide

/-- VB.8. -/
theorem test_clrStatus :
    (after .clrStatus { idleState with valid := true, result := .crcMismatch }).map (·.statusWord) =
      some 0x00000002#32 := by decide

/-- VS.13 at issue: C16 over the block, no exchange. -/
theorem test_sendBlock :
    (after (.sendBlock 4#10) (withBytes [0xCA#8, 0xFE#8, 0xBA#8, 0xBE#8])).map (fun t => (t.c16, t.phase, t.trace)) =
      some (0x948F#16, .txStart, []) := by decide +kernel

/-- VE.12. -/
theorem test_sendBlock_range :
    (after (.sendBlock 0#10) { idleState with c16 := 0x1234#16, drt := 0x05#8 }).map (fun t => (t.c16, t.drt, t.result)) =
      some (0x1234#16, 0x05#8, .range) := by decide

/-- R134: the issue step clears VALID and makes no exchange. -/
theorem test_receiveBlock :
    (after (.receiveBlock 512#10) { idleState with valid := true, c16 := 0x1234#16, rxcrc := 0x1234#16 }).map
      (fun t => (t.valid, t.c16, t.rxcrc, t.phase)) = some (false, 0x0000#16, 0x0000#16, .rxStart) := by decide

/-- VE.10, VR.11. -/
theorem test_receiveBlock_range :
    (after (.receiveBlock 513#10) { idleState with valid := true }).map (·.statusWord) = some 0x00000050#32 := by decide

/-- VE.17. -/
theorem test_dropped_while_busy :
    (after .crc16Init { inPhase .rxStart [] with c16 := 0x1234#16, result := .timeout }).map
      (fun t => (t.c16, t.result, t.overrun)) = some (0x1234#16, .timeout, true) := by decide

/-! ## The sequencer: one step each -/

/-- R135: the token, a poll that goes on, the last poll. -/
theorem test_start_token_poll :
    (nextOf (step (inPhase .rxStart [.ok 0xFE#8]))).map (fun t => (t.phase, t.cnt)) = some (.rxData, 1) ∧
    (nextOf (step (inPhase .rxStart [.ok 0x09#8]))).map (fun t => (t.phase, t.cnt)) = some (.rxStart, 1) ∧
    (nextOf (step { inPhase .rxStart [.ok 0xFF#8] with cnt := 1 })).map (fun t => (t.phase, t.result)) =
      some (.idle, .timeout) := by decide

/-- R136, V16.28. -/
theorem test_payload_byte :
    (nextOf (step (inPhase .rxData [.ok 0x55#8]))).map (fun t => (t.buf, t.c16, t.idx, t.phase)) =
      some ([(0, 0x55#8)], 0x0A50#16, 1#10, .rxCrcHi) := by decide

/-- R137, R138, VR.2, VR.5. -/
theorem test_received_crc :
    (nextOf (step { inPhase .rxCrcLo [.ok 0x50#8] with c16 := 0x0A50#16, rxcrc := 0x0A00#16 })).map
      (fun t => (t.rxcrc, t.statusWord)) = some (0x0A50#16, 0x00000002#32) ∧
    (nextOf (step { inPhase .rxCrcLo [.ok 0xC7#8] with c16 := 0x13C6#16, rxcrc := 0x1300#16 })).map
      (fun t => (t.rxcrc, t.statusWord)) = some (0x13C7#16, 0x00000030#32) := by decide

/-- R146, R147, VS.11, VS.9: the token's low nibble decides once the line is idle. -/
theorem test_token :
    (nextOf (step (inPhase .txToken [.ok 0x15#8]))).map (fun t => (t.drt, t.phase, t.cnt)) = some (0x15#8, .txBusy, 0) ∧
    (nextOf (step { inPhase .txBusy [.ok 0xFF#8] with drt := 0x15#8 })).map (·.result) = some .ok ∧
    (nextOf (step { inPhase .txBusy [.ok 0xFF#8] with drt := 0xFD#8 })).map (·.result) = some .protocol := by decide

/-- VR.2 and VS.6, whole: four and six steps. -/
theorem test_whole_blocks :
    (afterRun 4 { inPhase .rxStart ([0xFE#8, 0x55#8, 0x0A#8, 0x50#8].map .ok) with valid := false }).map
      (fun t => (t.statusWord, t.buf, transmitted t.trace)) =
      some (0x00000002#32, [(0, 0x55#8)], [0xFF#8, 0xFF#8, 0xFF#8, 0xFF#8]) ∧
    (afterRun 6 { inPhase .txStart ([0xFF#8, 0xFF#8, 0xFF#8, 0xFF#8, 0x0B#8, 0xFF#8].map .ok) with c16 := 0x1021#16 }).map
      (fun t => (t.statusWord, transmitted t.trace)) =
      some (0x00000010#32, [0xFE#8, 0x01#8, 0x10#8, 0x21#8, 0xFF#8, 0xFF#8]) := by decide

/-! ## Host accesses -/

/-- R198, D16, U7: a command issued after chip-select was deasserted is refused at its first exchange; while the block is idle
the change of chip-select is its level alone. -/
theorem test_bracket_broken :
    Host.Core.run Sys2Proof.core 3 { idleState with inputs := [.chipSelect false, .hostWrite 0#4 0x90040000#32] } =
      .refused .chipSelectNotAsserted ∧
    step { idleState with inputs := [.chipSelect false] } = .next { idleState with selected := false } := ⟨rfl, rfl⟩

/-- VB.13. -/
theorem test_reset_reads :
    [0#4, 1#4, 2#4, 3#4, 4#4, 5#4, 6#4, 7#4, 15#4].map State.reset.readReg =
      [0#32, 0#32, 1#32, 0#32, 0#32, 0xFF#32, 0#32, 0#32, 0#32] := by decide

/-- VB.12. -/
theorem test_trailer_read : ({ idleState with c7 := 0x4A#7 } : State).readReg 2#4 = 0x00000095#32 := by decide

/-- R114, R174: what a host makes of STATUS = VALID and OK, and of a rejected payload. -/
theorem test_host_reading :
    maySurface 0x00000002#32 = true ∧ maySurface 0x00000030#32 = false ∧ maySurface 0x00000003#32 = false ∧
    commandSucceeded true 0x00000000#32 = false ∧ commandSucceeded false 0x00000000#32 = true := by decide

/-! ## Witnesses: for each statement with hypotheses, what meets all of them together -/

/-- A receive of one byte at its first poll. -/
def receiving (card : List XferResult) : State := inPhase .rxStart card

/-- A receive of one byte, the payload 0x01 and the first CRC byte in. -/
def checking (card : List XferResult) : State :=
  { inPhase .rxCrcLo card with idx := 1#10, c16 := 0x1021#16, rxcrc := 0x1000#16 }

/-- A send of the one byte 0x01 at its start token. -/
def sending (card : List XferResult) : State := { inPhase .txStart card with c16 := 0x1021#16 }

/-- The idle block with a verified payload, the byte 0x01. -/
def verified : State := { withBytes [0x01#8] with valid := true, c16 := 0x1021#16, rxcrc := 0x1021#16, len := 1#10, idx := 1#10 }

theorem witness_inv_idle : idleState.Inv where
  bufCanonical := by decide
  limitsPositive := by decide
  lenInRange := fun h => absurd rfl h
  idxInRange := by decide
  cntInRange := by decide
  position := trivial
  checksum := trivial
  validChecked := fun h => by cases h

theorem witness_inv_receiving : (receiving []).Inv where
  bufCanonical := rfl
  limitsPositive := ⟨by decide, by decide, by decide⟩
  lenInRange := fun _ => ⟨by decide, by decide⟩
  idxInRange := by decide
  cntInRange := by decide
  position := ⟨rfl, by decide⟩
  checksum := ⟨rfl, rfl, rfl⟩
  validChecked := fun h => by cases h

theorem witness_inv_checking : (checking []).Inv where
  bufCanonical := rfl
  limitsPositive := ⟨by decide, by decide, by decide⟩
  lenInRange := fun _ => ⟨by decide, by decide⟩
  idxInRange := by decide
  cntInRange := by decide
  position := rfl
  checksum := ⟨rfl, by decide +kernel, by decide, by decide⟩
  validChecked := fun h => by cases h

theorem witness_inv_sending : (sending []).Inv where
  bufCanonical := rfl
  limitsPositive := ⟨by decide, by decide, by decide⟩
  lenInRange := fun _ => ⟨by decide, by decide⟩
  idxInRange := by decide
  cntInRange := by decide
  position := ⟨rfl, rfl⟩
  checksum := ⟨by decide +kernel, rfl⟩
  validChecked := fun h => by cases h

theorem witness_inv_verified : verified.Inv where
  bufCanonical := rfl
  limitsPositive := ⟨by decide, by decide, by decide⟩
  lenInRange := fun h => absurd rfl h
  idxInRange := by decide
  cntInRange := by decide
  position := trivial
  checksum := trivial
  validChecked := fun _ => ⟨1, by decide, by decide, by decide, by decide +kernel⟩

/-- Whatever the card will answer. -/
theorem inv_setCard {s : State} (h : s.Inv) (card : List XferResult) : ({ s with card := card } : State).Inv :=
  inv_setOutside h s.overrun s.result s.inputs card s.xferDraw s.selected s.trace

theorem witness_EncodeOfDecodedWordIsTheWord : decode 0x7003FEFF#32 = .ok (.bufWrite 511#9 0xFF#8) := rfl

theorem witness_LegalWordsMatchExactlyOneRow :
    (0x2#4, 0x20000000#32, 0xFFFFFF00#32) ∈ Sys2Proof.Spec.rows ∧ 0x200000FF#32 &&& 0xFFFFFF00#32 = 0x20000000#32 := by
  decide

theorem witness_StepRunsTheDecodedCommand :
    ({ idleState with inputs := [.hostWrite 0#4 0x20000040#32] } : State).inputs = .hostWrite 0#4 0x20000040#32 :: [] ∧
    decode 0x20000040#32 = .ok (.crc7Update 0x40#8) := ⟨rfl, rfl⟩

/-- Both clauses: a busy block, and a step that clears OVERRUN. -/
theorem witness_BusyBlockDropsEveryWord :
    ({ receiving [] with inputs := [.hostWrite 0#4 0x00000000#32] } : State).busy = true ∧
    ∃ s t : State, step s = .next t ∧ s.overrun = true ∧ t.overrun = false :=
  ⟨rfl, { idleState with overrun := true, inputs := [.hostWrite 0#4 0xB0000000#32] }, _, rfl, rfl, rfl⟩

/-- The four cases of the port: busy, illegal, LEN of 513, LEN of 512. -/
theorem witness_PortDecidesInOrder :
    (receiving []).busy = true ∧ idleState.busy = false ∧ ¬ Sys2Proof.Spec.legal 0x9000000F#32 ∧
    decode 0xA8040000#32 = .ok (.receiveBlock 513#10) ∧ (Instr.receiveBlock 513#10).wellFormed = false ∧
    decode 0x98000000#32 = .ok (.sendBlock 512#10) ∧ (Instr.sendBlock 512#10).wellFormed = true := by
  refine ⟨rfl, rfl, ?_, rfl, rfl, rfl, rfl⟩
  unfold Sys2Proof.Spec.legal
  decide

/-- The hypotheses of the command statements: idle and busy states, and LEN at the ends of both ranges. -/
theorem witness_commands :
    idleState.busy = false ∧ (receiving []).busy = true ∧ (0#10).toNat ≤ 512 ∧ (512#10).toNat ≤ 512 ∧
    512 < (513#10).toNat ∧ 512 < (1023#10).toNat ∧ 1 ≤ (1#10).toNat ∧ 1 ≤ (512#10).toNat ∧ (0#10).toNat = 0 ∧
    idleState.buf.read? (511#9).toNat = none ∧
    ({ idleState with overrun := true, result := .timeout } : State).statusWord = 0x00000024#32 ∧
    ({ idleState with buf := [(511, 0x5A#8)] } : State).bufByte 511 = 0x5A#8 ∧ idleState.c7 = 0x00#7 ∧
    idleState.c16 = 0x0000#16 := by decide

/-- A payload whose CRC-16 is RXCRC (R95). -/
theorem witness_Crc16BufSumsTheBuffer : crc16 (verified.bufBytes (1#10).toNat) = verified.rxcrc := by decide +kernel

/-- The hypotheses of StrayBitsIllegal, for each row: an idle block and a word of the opcode that misses MATCH. -/
theorem witness_stray_bits :
    [0x10000001#32, 0x20000100#32, 0x30000001#32, 0x40000001#32, 0x50000100#32, 0x60000200#32, 0x70040000#32,
      0x80000001#32, 0x9000000F#32, 0xA0000001#32, 0xB0000001#32].zip Sys2Proof.Spec.rows |>.all fun p =>
      decide (p.1.extractLsb' 28 4 = p.2.1) && decide (p.1 &&& p.2.2.2 ≠ p.2.2.1) &&
      !({ idleState with inputs := [.hostWrite 0#4 p.1] } : State).busy := by decide

/-- All clauses: a busy block with chip-select asserted and one without, an idle one, a card's answer, a turn given where the
block's own step answers a next state and where it is refused. -/
theorem witness_BlockStepMakesOneExchange :
    (receiving [.ok 0xFE#8]).Inv ∧ (receiving [.ok 0xFE#8]).busy = true ∧ (receiving [.ok 0xFE#8]).selected = true ∧
    (receiving [.ok 0xFE#8]).inputs = [] ∧ (receiving [.ok 0xFE#8]).card = .ok 0xFE#8 :: [] ∧ idleState.busy = false ∧
    idleState.inputs = [] ∧ (deselected .rxStart).busy = true ∧ (deselected .rxStart).selected = false ∧
    (deselected .rxStart).inputs = [] ∧ ({ receiving [.ok 0xFE#8] with inputs := [.blockStep] } : State).inputs = .blockStep :: [] ∧
    (∃ t, step { receiving [.ok 0xFE#8] with inputs := [] } = .next t) ∧
    ({ deselected .rxStart with inputs := [.blockStep] } : State).inputs = .blockStep :: [] ∧
    (∀ t, step { deselected .rxStart with inputs := [] } ≠ .next t) :=
  ⟨inv_setCard witness_inv_receiving _, rfl, rfl, rfl, rfl, rfl, rfl, rfl, rfl, rfl, rfl, ⟨_, rfl⟩, rfl, fun _ h => by cases h⟩

theorem witness_UnavailableEndsTheCommand :
    (checking [.unavail]).Inv ∧ (checking [.unavail]).busy = true ∧ (checking [.unavail]).selected = true ∧
    (checking [.unavail]).inputs = [] ∧ (checking [.unavail]).reply = .unavail :=
  ⟨inv_setCard witness_inv_checking _, rfl, rfl, rfl, rfl⟩

/-- The three clauses: the token, the last poll, a poll before the last. -/
theorem witness_StartTokenPollStep :
    (receiving [.ok 0xFE#8]).phase = .rxStart ∧ (receiving [.ok 0xFE#8]).selected = true ∧
    (receiving [.ok 0xFE#8]).inputs = [] ∧ (receiving [.ok 0xFE#8]).reply = .ok 0xFE#8 ∧
    ({ receiving [.ok 0xFF#8] with cnt := 1 } : State).reply = .ok 0xFF#8 ∧
    ({ receiving [.ok 0xFF#8] with cnt := 1 } : State).cnt + 1 = (receiving []).limits.nStart ∧
    (receiving [.ok 0xFF#8]).cnt + 1 ≠ (receiving []).limits.nStart ∧ (receiving [.ok 0xFE#8]).Inv :=
  ⟨rfl, rfl, rfl, rfl, rfl, rfl, by decide, inv_setCard witness_inv_receiving _⟩

/-- At the first and at the last index of BUF. -/
theorem witness_PayloadByteReceivedStep :
    (inPhase .rxData [.ok 0x55#8]).phase = .rxData ∧ (inPhase .rxData [.ok 0x55#8]).idx.toNat < 512 ∧
    ({ inPhase .rxData [.ok 0x55#8] with idx := 511#10 } : State).idx.toNat < 512 ∧
    (inPhase .rxData [.ok 0x55#8]).selected = true ∧ (inPhase .rxData [.ok 0x55#8]).inputs = [] ∧
    (inPhase .rxData [.ok 0x55#8]).reply = .ok 0x55#8 := by decide

/-- Both CRC bytes; the second with the CRC received right and wrong. -/
theorem witness_ReceivedCrcIsChecked :
    (inPhase .rxCrcHi [.ok 0x10#8]).phase = .rxCrcHi ∧ (inPhase .rxCrcHi [.ok 0x10#8]).selected = true ∧
    (inPhase .rxCrcHi [.ok 0x10#8]).inputs = [] ∧ (inPhase .rxCrcHi [.ok 0x10#8]).reply = .ok 0x10#8 ∧
    (checking [.ok 0x21#8]).phase = .rxCrcLo ∧ (checking [.ok 0x21#8]).selected = true ∧
    (checking [.ok 0x21#8]).inputs = [] ∧ (checking [.ok 0x21#8]).reply = .ok 0x21#8 ∧
    (checking [.ok 0x21#8]).c16 = (checking [.ok 0x21#8]).rxcrc.extractLsb' 8 8 ++ 0x21#8 ∧
    (checking [.ok 0x22#8]).c16 ≠ (checking [.ok 0x22#8]).rxcrc.extractLsb' 8 8 ++ 0x22#8 ∧
    (checking [.ok 0x21#8]).Inv :=
  ⟨rfl, rfl, rfl, rfl, rfl, rfl, rfl, rfl, by decide, by decide, inv_setCard witness_inv_checking _⟩

theorem witness_StartTokenAndPayloadSent :
    (sending [.ok 0xFF#8]).phase = .txStart ∧ (sending [.ok 0xFF#8]).selected = true ∧
    (sending [.ok 0xFF#8]).inputs = [] ∧ (sending [.ok 0xFF#8]).reply = .ok 0xFF#8 ∧
    (inPhase .txData [.ok 0xFF#8]).phase = .txData ∧ (inPhase .txData [.ok 0xFF#8]).idx.toNat < 512 ∧
    (inPhase .txData [.ok 0xFF#8]).selected = true ∧ (inPhase .txData [.ok 0xFF#8]).inputs = [] ∧ (inPhase .txData [.ok 0xFF#8]).reply = .ok 0xFF#8 := by decide

theorem witness_CrcBytesSent :
    [Phase.txCrcHi, Phase.txCrcLo].all fun p =>
      decide ((inPhase p [.ok 0xFF#8]).phase = p) && (inPhase p [.ok 0xFF#8]).selected &&
      decide ((inPhase p [.ok 0xFF#8]).inputs = []) && decide ((inPhase p [.ok 0xFF#8]).reply = .ok 0xFF#8) := by decide

/-- The three clauses: a token, the last poll, a poll before the last. -/
theorem witness_TokenPollStep :
    (inPhase .txToken [.ok 0x05#8]).phase = .txToken ∧ (inPhase .txToken [.ok 0x05#8]).selected = true ∧
    (inPhase .txToken [.ok 0x05#8]).inputs = [] ∧ (inPhase .txToken [.ok 0x05#8]).reply = .ok 0x05#8 ∧
    (inPhase .txToken [.ok 0xFF#8]).reply = .ok 0xFF#8 ∧
    ({ inPhase .txToken [.ok 0xFF#8] with cnt := 1 } : State).cnt + 1 = (inPhase .txToken []).limits.nToken ∧
    (inPhase .txToken [.ok 0xFF#8]).cnt + 1 ≠ (inPhase .txToken []).limits.nToken := by decide

/-- The four clauses: an accepted token, another token, the last poll, a poll before the last. -/
theorem witness_BusyPollStep :
    (inPhase .txBusy [.ok 0xFF#8]).phase = .txBusy ∧ (inPhase .txBusy [.ok 0xFF#8]).selected = true ∧
    (inPhase .txBusy [.ok 0xFF#8]).inputs = [] ∧ (inPhase .txBusy [.ok 0xFF#8]).reply = .ok 0xFF#8 ∧
    (0xE5#8).toNat % 16 = 5 ∧ (0x0B#8).toNat % 16 ≠ 5 ∧ (inPhase .txBusy [.ok 0x7F#8]).reply = .ok 0x7F#8 ∧
    ({ inPhase .txBusy [.ok 0x7F#8] with cnt := 1 } : State).cnt + 1 = (inPhase .txBusy []).limits.nBusy ∧
    (inPhase .txBusy [.ok 0x7F#8]).cnt + 1 ≠ (inPhase .txBusy []).limits.nBusy := by decide

/-- For each of the five registers, a step that changes it. -/
theorem witness_OnlyNamedEventsWriteTheRegisters :
    (∃ s t : State, step s = .next t ∧ t.c7 ≠ s.c7) ∧ (∃ s t : State, step s = .next t ∧ t.c16 ≠ s.c16) ∧
    (∃ s t : State, step s = .next t ∧ t.rxcrc ≠ s.rxcrc) ∧ (∃ s t : State, step s = .next t ∧ t.drt ≠ s.drt) ∧
    (∃ s t : State, step s = .next t ∧ t.rdata ≠ s.rdata) :=
  ⟨⟨{ idleState with inputs := [.hostWrite 0#4 0x20000040#32] }, _, rfl, by decide⟩,
   ⟨inPhase .rxData [.ok 0x55#8], _, rfl, by decide⟩,
   ⟨inPhase .rxCrcHi [.ok 0x10#8], _, rfl, by decide⟩,
   ⟨inPhase .txToken [.ok 0x05#8], _, rfl, by decide⟩,
   ⟨{ withBytes [0x12#8] with inputs := [.hostWrite 0#4 0x80000000#32] }, _, rfl, by decide⟩⟩

/-- A step of each kind that changes a byte of BUF, and a command that is no BUF_WRITE. -/
theorem witness_OnlyBufWriteAndTheDeframerChangeBuf :
    (∃ s t : State, step s = .next t ∧ t.bufByte 0 ≠ s.bufByte 0 ∧ s.busy = false) ∧
    (∃ s t : State, step s = .next t ∧ t.bufByte 0 ≠ s.bufByte 0 ∧ s.busy = true) ∧
    ((∃ t, exec .crc7Init idleState = .next t) ∧ ∀ x d, Instr.crc7Init ≠ .bufWrite x d) :=
  ⟨⟨{ withBytes [0x12#8] with inputs := [.hostWrite 0#4 0x70000055#32] }, _, rfl, by decide, rfl⟩,
   ⟨inPhase .rxData [.ok 0x55#8], _, rfl, by decide, rfl⟩, ⟨_, rfl⟩, fun _ _ h => by cases h⟩

theorem witness_ValidRisesOnlyWithACheckedPayload :
    ∃ s t : State, s.Inv ∧ step s = .next t ∧ s.valid = false ∧ t.valid = true :=
  ⟨checking [.ok 0x21#8], _, inv_setCard witness_inv_checking _, rfl, rfl, by decide⟩

theorem witness_ResultChangesOnlyAtCompletion : ∃ s t : State, step s = .next t ∧ t.result ≠ s.result :=
  ⟨receiving [.unavail], _, rfl, by decide⟩

theorem witness_SequencerLeavesTheRestAlone :
    ∃ s t : State, s.inputs = [] ∧ step s = .next t ∧ s.phase ≠ .rxData ∧ s.phase ≠ .rxCrcLo :=
  ⟨sending [.ok 0xFF#8], _, rfl, rfl, by decide, by decide⟩

theorem witness_HostReadReturnsTheRegister :
    ({ idleState with inputs := [.hostRead 6#4] } : State).inputs = .hostRead 6#4 :: [] ∧ 7 ≤ (7#4).toNat ∧
    7 ≤ (15#4).toNat := by decide

/-- The four clauses: each refusal, and each act of the host that is not refused. -/
theorem witness_OnlyTheNamedRunsAreRefused :
    (∃ s why, step s = .refused why) ∧ idleState.busy = false ∧
    (∀ e ∈ [Input.hostExchange, .transportReopen, .chipSelect false, .chipSelect true],
      ({ idleState with inputs := [e] } : State).inputs = e :: []) ∧
    ({ receiving [] with inputs := [.chipSelect true] } : State).inputs = .chipSelect true :: [] :=
  ⟨⟨deselected .rxStart, .chipSelectNotAsserted, rfl⟩, rfl, fun _ _ => rfl, rfl⟩

theorem witness_WriteElsewhereIsIgnored :
    1#4 ≠ 0#4 ∧ 15#4 ≠ 0#4 ∧
    ({ idleState with inputs := [.hostWrite 15#4 0xB0000000#32] } : State).inputs = .hostWrite 15#4 0xB0000000#32 :: [] := by
  decide

theorem witness_ResetAbandonsTheCommand :
    ({ checking [] with inputs := [.reset] } : State).inputs = .reset :: [] := rfl

theorem witness_WaitPollsStatus :
    ({ idleState with inputs := [.wait] } : State).inputs = .wait :: [] ∧
    ({ idleState with inputs := [.wait] } : State).busy = false ∧
    ({ receiving [] with inputs := [.wait] } : State).inputs = .wait :: [] ∧
    ({ receiving [] with inputs := [.wait] } : State).busy = true := ⟨rfl, rfl, rfl, rfl⟩

/-- The last index a fill may reach, and the first it may not. -/
theorem witness_PseudoInstructionsExpand :
    0 < 256 ∧ 255 < 256 ∧ [255] ≠ [] ∧ (∀ d ∈ [255], d < 256) ∧ 511 + ([255].length - 1) ≤ 511 ∧ [255, 0] ≠ [] ∧
    511 < 511 + ([255, 0].length - 1) := by decide

theorem witness_EveryStepKeepsTheInvariant : ∃ s t : State, s.Inv ∧ step s = .next t ∧ s.busy = true ∧ t.busy = true :=
  ⟨sending [.ok 0xFF#8], _, inv_setCard witness_inv_sending _, rfl, rfl, rfl⟩

theorem witness_NoFaultUnderTheInvariant : (checking []).Inv := inv_setCard witness_inv_checking _

theorem witness_SurfacedPayloadIsChecked : verified.Inv ∧ maySurface (verified.readReg 0#4) = true :=
  ⟨witness_inv_verified, by decide⟩

/-- A command in progress, and both commands at LEN 1 and 512. -/
theorem witness_BlockCommandEndsWithinItsBound :
    (sending []).Inv ∧ (sending []).selected = true ∧ (sending []).inputs = [] ∧ idleState.busy = false ∧ 1 ≤ (1#10).toNat ∧ (512#10).toNat ≤ 512 ∧
    (∃ t, exec (.receiveBlock 512#10) idleState = .next t) ∧ (∃ t, exec (.sendBlock 1#10) idleState = .next t) :=
  ⟨inv_setCard witness_inv_sending _, rfl, rfl, rfl, by decide, by decide, ⟨_, rfl⟩, ⟨_, rfl⟩⟩

theorem witness_block_command_outcomes :
    idleState.Inv ∧ idleState.busy = false ∧ idleState.selected = true ∧ idleState.inputs = [] ∧ 1 ≤ (1#10).toNat ∧ (1#10).toNat ≤ 512 ∧
    1 ≤ (512#10).toNat ∧ (512#10).toNat ≤ 512 := ⟨witness_inv_idle, by decide⟩

/-- VR.1 with one byte before the token. -/
theorem witness_ReceiveDeliversThePayload :
    ∃ (s u : State) (n : BitVec 10) (junk p : List Byte) (more : List XferResult),
      s.busy = false ∧ s.selected = true ∧ s.inputs = [] ∧ 1 ≤ n.toNat ∧ n.toNat ≤ 512 ∧ p.length = n.toNat ∧
      (∀ b ∈ junk, b ≠ 0xFE#8) ∧ junk.length < s.limits.nStart ∧
      s.card = (junk ++ 0xFE#8 :: (p ++ [crcHi (crc16 p), crcLo (crc16 p)])).map XferResult.ok ++ more ∧
      exec (.receiveBlock n) s = .next u :=
  ⟨{ idleState with card := [0xFF#8, 0xFE#8, 0x12#8, 0x34#8, 0x13#8, 0xC6#8].map .ok }, _, 2#10, [0xFF#8], [0x12#8, 0x34#8],
    [], rfl, rfl, rfl, by decide, by decide, rfl, by decide, by decide, by decide +kernel, rfl⟩

/-- A send of one byte with one poll before the token and one busy byte. -/
theorem witness_SendTransmitsTheBlock :
    ∃ (s u : State) (n : BitVec 10) (ignored busy : List Byte) (p : Nat) (d : Byte) (more : List XferResult),
      s.busy = false ∧ s.selected = true ∧ s.inputs = [] ∧ 1 ≤ n.toNat ∧ n.toNat ≤ 512 ∧ ignored.length = 3 + n.toNat ∧ p < s.limits.nToken ∧
      d ≠ 0xFF#8 ∧ d.toNat % 16 = 5 ∧ (∀ b ∈ busy, b ≠ 0xFF#8) ∧ busy.length < s.limits.nBusy ∧
      s.card = (ignored ++ (List.replicate p 0xFF#8 ++ d :: (busy ++ [0xFF#8]))).map XferResult.ok ++ more ∧
      exec (.sendBlock n) s = .next u :=
  ⟨{ withBytes [0x01#8] with card := [0#8, 0#8, 0#8, 0#8, 0xFF#8, 0x05#8, 0x00#8, 0xFF#8].map .ok }, _, 1#10,
    [0#8, 0#8, 0#8, 0#8], [0x00#8], 1, 0x05#8, [], rfl, rfl, rfl, by decide, by decide, rfl, by decide, by decide, by decide,
    by decide, by decide, rfl, rfl⟩

/-- The byte 0x01 sent as VS.1 is, and read back. -/
theorem witness_SentBlockReceivedBackIsThePayload :
    ∃ (s u t v w : State) (n : BitVec 10) (k : Nat) (junk : List Byte) (more : List XferResult),
      s.busy = false ∧ s.inputs = [] ∧ 1 ≤ n.toNat ∧ n.toNat ≤ 512 ∧ exec (.sendBlock n) s = .next u ∧
      Host.Core.run Sys2Proof.core k u = .next t ∧ t.busy = false ∧ t.result = .ok ∧ t.exchanges = s.exchanges + k ∧
      v.busy = false ∧ v.selected = true ∧ v.inputs = [] ∧ (∀ b ∈ junk, b ≠ 0xFE#8) ∧ junk.length < v.limits.nStart ∧
      v.card = (junk ++ (transmitted (t.trace.drop s.trace.length)).take (n.toNat + 3)).map XferResult.ok ++ more ∧
      exec (.receiveBlock n) v = .next w :=
  ⟨{ withBytes [0x01#8] with card := [0#8, 0#8, 0#8, 0#8, 0x05#8, 0xFF#8].map .ok }, _, _,
    { idleState with card := [0xFE#8, 0x01#8, 0x10#8, 0x21#8].map .ok }, _, 1#10, 6, [], [], rfl, rfl, by decide, by decide,
    rfl, rfl, rfl, rfl, rfl, rfl, rfl, rfl, by decide, by decide, rfl, rfl⟩

theorem witness_LastStepDecidesTheRace :
    ∃ s t : State, s.busy = true ∧ decode 0x10000000#32 = .ok .crc7Init ∧ step { s with inputs := [] } = .next t ∧ t.busy = false :=
  ⟨checking [.ok 0x21#8], _, rfl, rfl, rfl, by decide⟩

theorem witness_StreamOfUpdatesEqualsTheBatch :
    idleState.busy = false ∧
    ({ idleState with inputs := (Instr.crc7Init :: [0x12#8].map Instr.crc7Update).map issueInput } : State).inputs =
      (Instr.crc7Init :: [0x12#8].map Instr.crc7Update).map issueInput ∧
    ({ idleState with inputs := (Instr.crc16Init :: [0x12#8].map Instr.crc16Update).map issueInput } : State).inputs =
      (Instr.crc16Init :: [0x12#8].map Instr.crc16Update).map issueInput := ⟨rfl, rfl, rfl⟩

theorem witness_WrittenBytesAloneDecideTheResult :
    (withBytes [0x01#8]).busy = false ∧ (1#10).toNat ≤ 512 ∧ (withBytes [0x01#8]).bufWritten (1#10).toNat = true ∧
    (∃ t, exec (.crc7Buf 1#10) (withBytes [0x01#8]) = .next t) ∧ (∃ t, exec (.crc16Buf 1#10) (withBytes [0x01#8]) = .next t) ∧
    (∃ t, exec (.sendBlock 1#10) (withBytes [0x01#8]) = .next t) ∧ (0#9).toNat < (1#10).toNat ∧
    (∃ t, exec (.bufRead 0#9) (withBytes [0x01#8]) = .next t) :=
  ⟨rfl, by decide, by decide, ⟨_, rfl⟩, ⟨_, rfl⟩, ⟨_, rfl⟩, by decide, ⟨_, rfl⟩⟩

theorem witness_ByteWrittenIsTheByteReadBack :
    (withBytes [0x01#8]).busy = false ∧ (withBytes [0x01#8]).buf.wf = true ∧
    ∃ t, exec (.bufWrite 511#9 0xFF#8) (withBytes [0x01#8]) = .next t := ⟨rfl, by decide, _, rfl⟩

end Sys2Proof.Tests
end

section
/-! SUPPORT. Every step keeps the invariant (10_state.md R22, R26, R28; 42_block_framer.md R134 to R147): the clauses that
do not look at the phase, then the issue of a command, each phase of the sequencer, and reset. -/

namespace Sys2Proof.Machine

/-! ## The clauses that do not look at the phase -/

/-- The clauses of `State.Inv` that do not look at PHASE: all that is left to keep where a command ends. -/
structure State.PhaseFreeInv (s : State) : Prop where
  bufCanonical : s.buf.wf = true
  limitsPositive : 1 ≤ s.limits.nStart ∧ 1 ≤ s.limits.nToken ∧ 1 ≤ s.limits.nBusy
  idxInRange : s.idx.toNat ≤ blockMax
  cntInRange : s.cnt ≤ max s.limits.nStart (max s.limits.nToken s.limits.nBusy)
  validChecked : s.valid = true →
    ∃ n : Nat, 1 ≤ n ∧ n ≤ blockMax ∧ s.bufWritten n = true ∧ crc16 (s.bufBytes n) = s.rxcrc

theorem State.Inv.phaseFree {s : State} (h : s.Inv) : s.PhaseFreeInv := { h with }

/-- The clauses that look at PHASE ask nothing of an idle block. -/
theorem State.PhaseFreeInv.inv_of_idle {s : State} (h : s.PhaseFreeInv) (hp : s.phase = .idle) : s.Inv :=
  { h with
    lenInRange := fun hne => absurd hp hne
    position := by simp [State.positionOk, hp]
    checksum := by simp [State.checksumOk, hp] }

theorem State.PhaseFreeInv.inv_finish {s : State} (h : s.PhaseFreeInv) (code : ResultCode) : (finish code s).Inv :=
  State.PhaseFreeInv.inv_of_idle (s := finish code s) { h with } rfl

/-- C7, C16, RDATA and OVERRUN are free where a command ends. -/
theorem inv_finish_setRegs {s : State} (h : s.Inv) (code : ResultCode) (c7 : BitVec 7) (c16 : BitVec 16) (rdata : Byte)
    (overrun : Bool) :
    (finish code { s with c7 := c7, c16 := c16, rdata := rdata, overrun := overrun }).Inv :=
  State.PhaseFreeInv.inv_finish (s := { s with c7 := c7, c16 := c16, rdata := rdata, overrun := overrun })
    { h with } code

/-- With VALID cleared, nothing is asked of the bytes of BUF. -/
theorem inv_finish_invalid {s : State} (h : s.Inv) (code : ResultCode) {buf : Memory} (hbuf : buf.wf = true) :
    (finish code { s with buf := buf, valid := false }).Inv :=
  State.PhaseFreeInv.inv_finish (s := { s with buf := buf, valid := false })
    { h with bufCanonical := hbuf, validChecked := nofun } code

/-- A poll that gives up leaves CNT at the count it reached. -/
theorem inv_timeout {s : State} (h : s.Inv) {c : Nat}
    (hc : c ≤ max s.limits.nStart (max s.limits.nToken s.limits.nBusy)) :
    (finish .timeout { s with cnt := c }).Inv :=
  State.PhaseFreeInv.inv_finish (s := { s with cnt := c }) { h with cntInRange := hc } .timeout

/-! ## The position and the checksum of a known phase -/

theorem State.Inv.position_at {s : State} {p : Phase} (h : s.Inv) (hp : s.phase = p) :
    ({ s with phase := p } : State).positionOk := hp ▸ h.position

theorem State.Inv.checksum_at {s : State} {p : Phase} (h : s.Inv) (hp : s.phase = p) :
    ({ s with phase := p } : State).checksumOk := hp ▸ h.checksum

theorem State.Inv.lenInRange_at {s : State} {p : Phase} (h : s.Inv) (hp : s.phase = p) (hne : p ≠ .idle) :
    1 ≤ s.len.toNat ∧ s.len.toNat ≤ blockMax := h.lenInRange (hp ▸ hne)

/-! ## Reset -/

/-- A block with BUF empty, VALID, IDX and CNT at 0, and its limits in order, is in no command and meets the invariant. -/
theorem inv_of_cleared {s : State} (hphase : s.phase = .idle) (hbuf : s.buf = []) (hvalid : s.valid = false)
    (hidx : s.idx = 0#10) (hcnt : s.cnt = 0)
    (hlimits : 1 ≤ s.limits.nStart ∧ 1 ≤ s.limits.nToken ∧ 1 ≤ s.limits.nBusy) : s.Inv :=
  State.PhaseFreeInv.inv_of_idle
    { bufCanonical := by rw [hbuf]; rfl
      limitsPositive := hlimits
      idxInRange := by simp [hidx]
      cntInRange := by simp [hcnt]
      validChecked := by simp [hvalid] }
    hphase

theorem resetBlock_inv {s : State} (h : s.Inv) : (resetBlock s).Inv :=
  inv_of_cleared rfl rfl rfl rfl rfl h.limitsPositive

/-! ## The issue of a command -/

/-- SEND_BLOCK issued: the checksum is that of the payload, and the token is none (R141). -/
theorem sendBlock_issue_inv {s : State} (h : s.Inv) {n : BitVec 10} (h1 : 1 ≤ n.toNat) (h512 : n.toNat ≤ 512) :
    ({ s with c16 := crc16 (s.bufBytes n.toNat), drt := drtNone, len := n, idx := 0#10, cnt := 0,
              phase := .txStart } : State).Inv :=
  { h with
    lenInRange := fun _ => ⟨h1, h512⟩
    idxInRange := Nat.zero_le _
    cntInRange := Nat.zero_le _
    position := ⟨rfl, rfl⟩
    checksum := ⟨rfl, rfl⟩ }

/-- RECEIVE_BLOCK issued: nothing received yet, and VALID cleared (R134). -/
theorem receiveBlock_issue_inv {s : State} (h : s.Inv) {n : BitVec 10} (h1 : 1 ≤ n.toNat) (h512 : n.toNat ≤ 512) :
    ({ s with valid := false, c16 := crc16Start, rxcrc := 0x0000#16, len := n, idx := 0#10, cnt := 0,
              phase := .rxStart } : State).Inv :=
  { h with
    lenInRange := fun _ => ⟨h1, h512⟩
    idxInRange := Nat.zero_le _
    cntInRange := Nat.zero_le _
    position := ⟨rfl, h.limitsPositive.1⟩
    checksum := ⟨rfl, rfl, rfl⟩
    validChecked := nofun }

theorem exec_inv {i : Instr} {s t : State} (h : s.Inv) (hx : exec i s = .next t) : t.Inv := by
  rcases exec_cases hx with ⟨-, rfl⟩ | ⟨-, hi⟩
  · exact inv_setOutside h true s.result s.inputs s.card s.xferDraw s.selected s.trace
  · have regs := inv_finish_setRegs h
    cases i with
    | crc7Init => exact hi ▸ regs .ok crc7Start s.c16 s.rdata s.overrun
    | crc7Update d => exact hi ▸ regs .ok (crc7Byte s.c7 d) s.c16 s.rdata s.overrun
    | crc7Buf n =>
      obtain ⟨-, rfl⟩ | ⟨-, rfl⟩ := hi
      · exact regs .ok (crc7 (s.bufBytes n.toNat)) s.c16 s.rdata s.overrun
      · exact h.phaseFree.inv_finish .range
    | crc16Init => exact hi ▸ regs .ok s.c7 crc16Start s.rdata s.overrun
    | crc16Update d => exact hi ▸ regs .ok s.c7 (crc16Byte s.c16 d) s.rdata s.overrun
    | crc16Buf n =>
      obtain ⟨-, rfl⟩ | ⟨-, rfl⟩ := hi
      · exact regs .ok s.c7 (crc16 (s.bufBytes n.toNat)) s.rdata s.overrun
      · exact h.phaseFree.inv_finish .range
    | bufWrite i d => exact hi ▸ inv_finish_invalid h .ok (Memory.write_wf d h.bufCanonical i.isLt)
    | bufRead i => exact hi ▸ regs .ok s.c7 s.c16 (s.bufByte i.toNat) s.overrun
    | sendBlock n =>
      obtain ⟨h1, h512, rfl⟩ | ⟨-, rfl⟩ := hi
      · exact sendBlock_issue_inv h h1 h512
      · exact h.phaseFree.inv_finish .range
    | receiveBlock n =>
      obtain ⟨h1, h512, rfl⟩ | ⟨-, rfl⟩ := hi
      · exact receiveBlock_issue_inv h h1 h512
      · exact inv_finish_invalid h .range h.bufCanonical
    | clrStatus => exact hi ▸ regs .ok s.c7 s.c16 s.rdata false

/-! ## The phases of RECEIVE_BLOCK -/

theorem rxStart_inv (r : Byte) {s : State} (h : s.Inv) (hp : s.phase = .rxStart) : (rxStart r s).Inv := by
  obtain ⟨hidx, hcnt⟩ := h.position_at hp
  obtain ⟨hvalid, hc16, hrx⟩ := h.checksum_at hp
  obtain ⟨hlen, -⟩ := h.lenInRange_at hp nofun
  have hc : s.cnt + 1 ≤ max s.limits.nStart (max s.limits.nToken s.limits.nBusy) := le_max_of_le_left hcnt
  dsimp only at hidx hc16
  unfold rxStart
  dsimp only
  split
  · exact
      { h with
        lenInRange := fun _ => h.lenInRange_at hp nofun
        cntInRange := hc
        position := show s.idx.toNat < s.len.toNat by rw [hidx]; exact hlen
        checksum := ⟨hvalid, by rw [hidx]; exact hc16, by rw [hidx]; rfl, hrx⟩ }
  · split
    · exact inv_timeout h hc
    · exact
        { h with
          cntInRange := hc
          position := hp ▸ ⟨hidx, Nat.lt_of_le_of_ne hcnt ‹_›⟩
          checksum := hp ▸ ⟨hvalid, hc16, hrx⟩ }

/-- Writing the byte at index `n` makes it the last of `BUF[0..n]` and keeps those below. -/
theorem bufBytes_succ_write (s : State) (n : Nat) (r : Byte) :
    ({ s with buf := s.buf.write n r } : State).bufBytes (n + 1) = s.bufBytes n ++ [r] := by
  rw [bufBytes_succ]
  congr 1
  · exact bufBytes_ext fun a ha => Memory.byte_write_other _ _ _ (Nat.ne_of_lt ha)
  · exact congrArg (fun b => [b]) (Memory.byte_write_same _ _ _ _)

theorem bufWritten_succ_write {s : State} {n : Nat} (r : Byte) (h : s.bufWritten n = true) :
    ({ s with buf := s.buf.write n r } : State).bufWritten (n + 1) = true := by
  rw [bufWritten_iff] at h ⊢
  intro a ha
  show ((s.buf.write n r).read? a).isSome = true
  rcases Nat.lt_succ_iff_lt_or_eq.1 ha with ha | rfl
  · rw [Memory.read?_write_other _ _ (Nat.ne_of_lt ha)]
    exact h a ha
  · rw [Memory.read?_write_same]
    rfl

/-- IDX one further is still short of LEN where it is not LEN. -/
theorem idx_succ_lt {i n : BitVec 10} (hin : i.toNat < n.toNat) (h512 : i.toNat < 512) (hne : i + 1#10 ≠ n) :
    (i + 1#10).toNat < n.toNat := by
  rw [Ne, idx_succ_eq_iff h512] at hne
  rw [toNat_idx_succ h512]
  omega

/-- One payload byte received: C16 stays the checksum of what BUF holds of the payload (R136). -/
theorem rxData_inv (r : Byte) {s : State} (h : s.Inv) (hp : s.phase = .rxData) : (rxData r s).Inv := by
  have hidx : s.idx.toNat < s.len.toNat := h.position_at hp
  obtain ⟨hvalid, hc16, hwritten, hrx⟩ := h.checksum_at hp
  have hlen : 1 ≤ s.len.toNat ∧ s.len.toNat ≤ blockMax := h.lenInRange_at hp nofun
  have h512 : s.idx.toNat < 512 := Nat.lt_of_lt_of_le hidx hlen.2
  have hsucc : (s.idx + 1#10).toNat = s.idx.toNat + 1 := toNat_idx_succ h512
  have hchk : s.valid = false ∧
      crc16Byte s.c16 r =
        crc16 (({ s with buf := s.buf.write s.idx.toNat r } : State).bufBytes (s.idx + 1#10).toNat) ∧
      ({ s with buf := s.buf.write s.idx.toNat r } : State).bufWritten (s.idx + 1#10).toNat = true ∧
      s.rxcrc = 0x0000#16 := by
    refine ⟨hvalid, ?_, ?_, hrx⟩
    · rw [hsucc, bufBytes_succ_write, crc16_snoc]
      exact congrArg (crc16Byte · r) hc16
    · rw [hsucc]
      exact bufWritten_succ_write r hwritten
  have hphase : (rxData r s).PhaseFreeInv :=
    { bufCanonical := Memory.write_wf r h.bufCanonical h512
      limitsPositive := h.limitsPositive
      idxInRange := hsucc.trans_le h512
      cntInRange := h.cntInRange
      validChecked := fun hv => absurd (hvalid.symm.trans hv) nofun }
  by_cases hlast : s.idx + 1#10 = s.len
  · have hto : (rxData r s).phase = .rxCrcHi := if_pos hlast
    exact
      { hphase with
        lenInRange := fun _ => hlen
        position := by unfold State.positionOk; rw [hto]; exact hlast
        checksum := by unfold State.checksumOk; rw [hto]; exact hchk }
  · have hto : (rxData r s).phase = .rxData := if_neg hlast
    exact
      { hphase with
        lenInRange := fun _ => hlen
        position := by unfold State.positionOk; rw [hto]; exact idx_succ_lt hidx h512 hlast
        checksum := by unfold State.checksumOk; rw [hto]; exact hchk }

theorem rxCrcHi_inv (r : Byte) {s : State} (h : s.Inv) (hp : s.phase = .rxCrcHi) : (rxCrcHi r s).Inv := by
  obtain ⟨hvalid, hc16, hwritten, -⟩ := h.checksum_at hp
  exact
    { h with
      lenInRange := fun _ => h.lenInRange_at hp nofun
      position := h.position_at hp
      checksum := ⟨hvalid, hc16, hwritten, crcLo_append r 0x00#8⟩
      validChecked := fun hv => absurd (hvalid.symm.trans hv) nofun }

/-- The check: VALID rises only where the checksum of the payload is the one received (R138). -/
theorem rxCrcLo_inv (r : Byte) {s : State} (h : s.Inv) (hp : s.phase = .rxCrcLo) : (rxCrcLo r s).Inv := by
  have hidx : s.idx = s.len := h.position_at hp
  obtain ⟨hvalid, hc16, hwritten, -⟩ := h.checksum_at hp
  obtain ⟨h1, h512⟩ : 1 ≤ s.len.toNat ∧ s.len.toNat ≤ blockMax := h.lenInRange_at hp nofun
  rw [← hidx] at h1 h512
  unfold rxCrcLo
  dsimp only
  split
  case isTrue heq =>
    exact State.PhaseFreeInv.inv_finish
      (s := { s with rxcrc := crcHi s.rxcrc ++ r, valid := true })
      { h with validChecked := fun _ => ⟨s.idx.toNat, h1, h512, hwritten, hc16.symm.trans heq⟩ } .ok
  case isFalse =>
    exact State.PhaseFreeInv.inv_finish (s := { s with rxcrc := crcHi s.rxcrc ++ r })
      { h with validChecked := fun hv => absurd (hvalid.symm.trans hv) nofun } .crcMismatch

/-! ## The phases of SEND_BLOCK -/

theorem txStart_inv (r : Byte) {s : State} (h : s.Inv) (hp : s.phase = .txStart) : (txStart r s).Inv := by
  obtain ⟨hidx, hcnt⟩ := h.position_at hp
  have hchk := h.checksum_at hp
  have hlen : 1 ≤ s.len.toNat ∧ s.len.toNat ≤ blockMax := h.lenInRange_at hp nofun
  dsimp only at hidx
  exact
    { h with
      lenInRange := fun _ => hlen
      position := ⟨show s.idx.toNat < s.len.toNat by rw [hidx]; exact hlen.1, hcnt⟩
      checksum := hchk }

theorem txData_inv (r : Byte) {s : State} (h : s.Inv) (hp : s.phase = .txData) : (txData r s).Inv := by
  obtain ⟨hidx, hcnt⟩ : s.idx.toNat < s.len.toNat ∧ s.cnt = 0 := h.position_at hp
  have hlen : 1 ≤ s.len.toNat ∧ s.len.toNat ≤ blockMax := h.lenInRange_at hp nofun
  have h512 : s.idx.toNat < 512 := Nat.lt_of_lt_of_le hidx hlen.2
  have hsucc : (s.idx + 1#10).toNat = s.idx.toNat + 1 := toNat_idx_succ h512
  have hphase : (txData r s).PhaseFreeInv := { h with idxInRange := hsucc.trans_le h512 }
  by_cases hlast : s.idx + 1#10 = s.len
  · have hto : (txData r s).phase = .txCrcHi := if_pos hlast
    exact
      { hphase with
        lenInRange := fun _ => hlen
        position := by unfold State.positionOk; rw [hto]; exact ⟨hlast, hcnt⟩
        checksum := by unfold State.checksumOk; rw [hto]; exact h.checksum_at hp }
  · have hto : (txData r s).phase = .txData := if_neg hlast
    exact
      { hphase with
        lenInRange := fun _ => hlen
        position := by unfold State.positionOk; rw [hto]; exact ⟨idx_succ_lt hidx h512 hlast, hcnt⟩
        checksum := by unfold State.checksumOk; rw [hto]; exact h.checksum_at hp }

theorem txCrcHi_inv (r : Byte) {s : State} (h : s.Inv) (hp : s.phase = .txCrcHi) : (txCrcHi r s).Inv := by
  have hpos := h.position_at hp
  have hchk := h.checksum_at hp
  exact
    { h with
      lenInRange := fun _ => h.lenInRange_at hp nofun
      position := hpos
      checksum := hchk }

theorem txCrcLo_inv (r : Byte) {s : State} (h : s.Inv) (hp : s.phase = .txCrcLo) : (txCrcLo r s).Inv := by
  obtain ⟨hidx, -⟩ := h.position_at hp
  have hchk := h.checksum_at hp
  exact
    { h with
      lenInRange := fun _ => h.lenInRange_at hp nofun
      cntInRange := Nat.zero_le _
      position := ⟨hidx, h.limitsPositive.2.1⟩
      checksum := hchk }

/-- The token poll: only a byte other than 0xFF is taken as the token (R146). -/
theorem txToken_inv (r : Byte) {s : State} (h : s.Inv) (hp : s.phase = .txToken) : (txToken r s).Inv := by
  obtain ⟨hidx, hcnt⟩ := h.position_at hp
  obtain ⟨hc16, hdrt⟩ := h.checksum_at hp
  have hc : s.cnt + 1 ≤ max s.limits.nStart (max s.limits.nToken s.limits.nBusy) :=
    le_max_of_le_right (le_max_of_le_left hcnt)
  unfold txToken
  dsimp only
  split
  case isTrue htoken =>
    exact
      { h with
        lenInRange := fun _ => h.lenInRange_at hp nofun
        cntInRange := Nat.zero_le _
        position := ⟨hidx, h.limitsPositive.2.2⟩
        checksum := ⟨hc16, htoken⟩ }
  case isFalse =>
    split
    · exact inv_timeout h hc
    · exact
        { h with
          cntInRange := hc
          position := hp ▸ ⟨hidx, Nat.lt_of_le_of_ne hcnt ‹_›⟩
          checksum := hp ▸ ⟨hc16, hdrt⟩ }

theorem txBusy_inv (r : Byte) {s : State} (h : s.Inv) (hp : s.phase = .txBusy) : (txBusy r s).Inv := by
  obtain ⟨hidx, hcnt⟩ := h.position_at hp
  have hc : s.cnt + 1 ≤ max s.limits.nStart (max s.limits.nToken s.limits.nBusy) :=
    le_max_of_le_right (le_max_of_le_right hcnt)
  unfold txBusy
  dsimp only
  split
  · exact h.phaseFree.inv_finish _
  · split
    · exact inv_timeout h hc
    · exact
        { h with
          cntInRange := hc
          position := hp ▸ ⟨hidx, Nat.lt_of_le_of_ne hcnt ‹_›⟩
          checksum := hp ▸ h.checksum_at hp }

/-! ## The block's step, and every step -/

theorem phaseStep_inv (r : Byte) {s : State} (h : s.Inv) : (phaseStep r s).Inv := by
  unfold phaseStep
  split
  case h_1 => exact h
  case h_2 hp => exact rxStart_inv r h hp
  case h_3 hp => exact rxData_inv r h hp
  case h_4 hp => exact rxCrcHi_inv r h hp
  case h_5 hp => exact rxCrcLo_inv r h hp
  case h_6 hp => exact txStart_inv r h hp
  case h_7 hp => exact txData_inv r h hp
  case h_8 hp => exact txCrcHi_inv r h hp
  case h_9 hp => exact txCrcLo_inv r h hp
  case h_10 hp => exact txToken_inv r h hp
  case h_11 hp => exact txBusy_inv r h hp

theorem afterXfer_inv (b : Byte) {s : State} (h : s.Inv) : (afterXfer b s).Inv :=
  inv_setOutside h s.overrun s.result s.inputs _ _ s.selected _

theorem blockStep_inv {s t : State} (h : s.Inv) (hb : blockStep s = .next t) : t.Inv := by
  rcases blockStep_cases hb with ⟨-, rfl⟩ | ⟨-, -, -, rfl⟩ | ⟨-, -, r, -, rfl⟩
  · exact h
  · exact (afterXfer_inv _ h).phaseFree.inv_finish .busUnavailable
  · exact phaseStep_inv r (afterXfer_inv _ h)

theorem step_inv {s t : State} (h : s.Inv) (hs : step s = .next t) : t.Inv := by
  have hset (is : List Input) : ({ s with inputs := is } : State).Inv :=
    inv_setOutside h s.overrun s.result is s.card s.xferDraw s.selected s.trace
  rcases step_cases hs with ⟨_, rest, _, -, -, -, hx⟩ | ⟨_, rest, _, -, -, -, rfl⟩ | ⟨-, rest, -, hb⟩ |
    ⟨rest, -, rfl⟩ | ⟨is, tr, ov, sel, rfl, -, -⟩
  · exact exec_inv (hset rest) hx
  · exact inv_setOutside h s.overrun .illegal rest s.card s.xferDraw s.selected s.trace
  · exact blockStep_inv (hset rest) hb
  · exact resetBlock_inv (hset rest)
  · exact inv_setOutside h ov s.result is s.card s.xferDraw sel tr

/-- Settles O44, by what a step can do: a command, a phase of the sequencer, a reset, or nothing the invariant sees. -/
theorem everyStepKeepsTheInvariant : Obligations.EveryStepKeepsTheInvariant := fun _ _ => step_inv

/-- Settles O43: R37 clears BUF, VALID, IDX and CNT, and each limit is one more than an uninterpreted number. -/
theorem resetMeetsTheInvariant : Obligations.ResetMeetsTheInvariant :=
  inv_of_cleared rfl rfl rfl rfl rfl ⟨Nat.succ_pos _, Nat.succ_pos _, Nat.succ_pos _⟩

end Sys2Proof.Machine
end

section
/-! SUPPORT. Which command and which phase writes which element (10_state.md R20 to R27, R38), and the host's reads
(R26, R30). -/

namespace Sys2Proof.Machine

/-! ## One write of a legal word, and one host read -/

/-- Settles O6: the event is taken off the list, and the port hands the decoded command to `exec`. -/
theorem stepRunsTheDecodedCommand : Obligations.StepRunsTheDecodedCommand := by
  intro s w i rest hin hdec
  rw [step_of_cons hin]
  simp only [onInput, hostWrite, if_true, commandPort, hdec]

/-- The trailer of R84, `((c << 1) | 1)[7:0]`, in the form of the rule. -/
theorem trailer_eq_shift_or (c : BitVec 7) : trailer c = (c.setWidth 8 <<< 1) ||| 1#8 := by
  revert c
  decide

theorem readReg_of_seven_le (s : State) {n : BitVec 4} (h : 7 ≤ n.toNat) : s.readReg n = 0x00000000#32 := by
  unfold State.readReg
  split
  case h_8 => rfl
  all_goals omega

/-- Settles O34: the read adds its record and nothing else; registers 0 to 6 are the elements R30 names, the others 0. -/
theorem hostReadReturnsTheRegister : Obligations.HostReadReturnsTheRegister := by
  refine ⟨fun s n rest hin => ?_, fun s => ⟨rfl, rfl, ?_, rfl, rfl, rfl, rfl, fun n hn => readReg_of_seven_le s hn⟩⟩
  · rw [step_of_cons hin]
    rfl
  · rw [← trailer_eq_shift_or]
    rfl

/-! ## The STATUS word -/

/-- Bit `i` of STATUS, by the fields of R26. -/
theorem getLsbD_statusWord (s : State) (i : Nat) :
    s.statusWord.getLsbD i =
      if i = 0 then s.busy else if i = 1 then s.valid else if i = 2 then s.overrun else if i = 3 then false
      else s.result.code.getLsbD (i - 4) := by
  unfold State.statusWord
  simp only [BitVec.getLsbD_append]
  match i with
  | 0 => simp
  | 1 => simp
  | 2 => simp
  | 3 => simp
  | i + 4 =>
    have hlt : s.result.code.getLsbD i = true → i + 4 < 7 := fun h => Nat.add_lt_add_right (BitVec.lt_of_getLsbD h) 4
    simpa using hlt

/-- Settles O36: the word's bits one by one, bits 6:4 as the three bits of the code. -/
theorem statusWordBits : Obligations.StatusWordBits := by
  intro s
  have hbit := getLsbD_statusWord s
  refine ⟨hbit 0, hbit 1, hbit 2, hbit 3, ?_, fun i hi => ?_, busy_eq_true_iff s⟩
  · have hcode : s.statusWord.extractLsb' 4 3 = s.result.code := by
      apply BitVec.eq_of_getLsbD_eq
      intro i hi
      rw [BitVec.getLsbD_extractLsb', Nat.add_comm, hbit]
      simp [hi]
    rw [hcode]
    cases s.result <;> rfl
  · obtain ⟨j, rfl⟩ := Nat.exists_eq_add_of_le' hi
    rw [hbit]
    simp

/-! ## What each command writes -/

/-- The registers a command changes, and the commands that change them (R20, R21, R23 to R25). -/
theorem exec_changes_registers {i : Instr} {s t : State} (h : exec i s = .next t) :
    (t.c7 ≠ s.c7 → i = .crc7Init ∨ (∃ d, i = .crc7Update d) ∨ ∃ n, i = .crc7Buf n) ∧
    (t.c16 ≠ s.c16 → i = .crc16Init ∨ (∃ d, i = .crc16Update d) ∨ (∃ n, i = .crc16Buf n) ∨
      (∃ n, i = .sendBlock n) ∨ ∃ n, i = .receiveBlock n) ∧
    (t.rxcrc ≠ s.rxcrc → ∃ n, i = .receiveBlock n) ∧
    (t.drt ≠ s.drt → ∃ n, i = .sendBlock n) ∧
    (t.rdata ≠ s.rdata → ∃ x, i = .bufRead x) := by
  rcases exec_cases h with ⟨-, rfl⟩ | ⟨-, hi⟩
  · simp
  · cases i with
    | crc7Init => simp [hi]
    | crc7Update d => simp [hi]
    | crc7Buf n => obtain ⟨-, rfl⟩ | ⟨-, rfl⟩ := hi <;> simp
    | crc16Init => simp [hi]
    | crc16Update d => simp [hi]
    | crc16Buf n => obtain ⟨-, rfl⟩ | ⟨-, rfl⟩ := hi <;> simp
    | bufWrite i d => simp [hi]
    | bufRead i => simp [hi]
    | sendBlock n => obtain ⟨-, -, rfl⟩ | ⟨-, rfl⟩ := hi <;> simp
    | receiveBlock n => obtain ⟨-, -, rfl⟩ | ⟨-, rfl⟩ := hi <;> simp
    | clrStatus => simp [hi]

/-- The only command that changes a byte of BUF is a BUF_WRITE to its index (R112). -/
theorem exec_changes_bufByte {i : Instr} {s t : State} {a : Nat} (h : exec i s = .next t)
    (hne : t.bufByte a ≠ s.bufByte a) : ∃ x d, i = .bufWrite x d ∧ x.toNat = a := by
  rcases exec_cases h with ⟨-, rfl⟩ | ⟨-, hi⟩
  · exact absurd rfl hne
  · cases i
    case bufWrite x d =>
      cases hi
      exact ⟨x, d, rfl, by_contra fun hxa => hne (Memory.byte_write_other _ _ _ (Ne.symm hxa))⟩
    case crc7Buf | crc16Buf => obtain ⟨-, rfl⟩ | ⟨-, rfl⟩ := hi <;> exact absurd rfl hne
    case sendBlock | receiveBlock => obtain ⟨-, -, rfl⟩ | ⟨-, rfl⟩ := hi <;> exact absurd rfl hne
    all_goals
      cases hi
      exact absurd rfl hne

/-- A command that changes RESULT has ended in its own step: the issue of a block command leaves RESULT alone. -/
theorem exec_changes_result {i : Instr} {s t : State} (h : exec i s = .next t) (hne : t.result ≠ s.result) :
    t.phase = .idle := by
  rcases exec_cases h with ⟨-, rfl⟩ | ⟨-, hi⟩
  · exact absurd rfl hne
  · cases i
    case sendBlock | receiveBlock =>
      obtain ⟨-, -, rfl⟩ | ⟨-, rfl⟩ := hi
      · exact absurd rfl hne
      · rfl
    case crc7Buf | crc16Buf => obtain ⟨-, rfl⟩ | ⟨-, rfl⟩ := hi <;> rfl
    all_goals
      cases hi
      rfl

/-! ## What each phase writes -/

/-- What a phase changes of C16, RXCRC, DRT, BUF and RESULT: each of the first four in its own phases (R21 to R24), and
RESULT where the command ends. -/
theorem phaseStep_changes (r : Byte) (s : State) :
    ((phaseStep r s).c16 ≠ s.c16 → s.phase = .rxData) ∧
    ((phaseStep r s).rxcrc ≠ s.rxcrc → s.phase = .rxCrcHi ∨ s.phase = .rxCrcLo) ∧
    ((phaseStep r s).drt ≠ s.drt → s.phase = .txToken) ∧
    ((phaseStep r s).buf ≠ s.buf → s.phase = .rxData ∧ (phaseStep r s).buf = s.buf.write s.idx.toNat r) ∧
    ((phaseStep r s).result ≠ s.result → (phaseStep r s).phase = .idle) := by
  unfold phaseStep rxStart rxData rxCrcHi rxCrcLo txStart txData txCrcHi txCrcLo txToken txBusy
  cases s.phase <;> dsimp only <;> repeat' split
  all_goals simp

/-- The deframer changes the byte of BUF at IDX, and no other phase changes any (R136). -/
theorem phaseStep_changes_bufByte {r : Byte} {s : State} {a : Nat} (hne : (phaseStep r s).bufByte a ≠ s.bufByte a) :
    s.phase = .rxData ∧ s.idx.toNat = a := by
  obtain ⟨-, -, -, hbuf, -⟩ := phaseStep_changes r s
  rw [bufByte_def, bufByte_def, phaseStep_bufDraw] at hne
  obtain ⟨hp, hwrite⟩ := hbuf fun heq => hne (by rw [heq])
  rw [hwrite] at hne
  exact ⟨hp, by_contra fun hia => hne (Memory.byte_write_other _ _ _ (Ne.symm hia))⟩

/-! ## What the block's own step and any step can write -/

theorem blockStep_changes_registers {s t : State} (h : blockStep s = .next t) :
    t.c7 = s.c7 ∧ t.rdata = s.rdata ∧ (t.c16 ≠ s.c16 → s.phase = .rxData) ∧
    (t.rxcrc ≠ s.rxcrc → s.phase = .rxCrcHi ∨ s.phase = .rxCrcLo) ∧ (t.drt ≠ s.drt → s.phase = .txToken) := by
  rcases blockStep_cases h with ⟨-, rfl⟩ | ⟨-, -, -, rfl⟩ | ⟨-, -, r, -, rfl⟩
  · simp
  · simp
  · obtain ⟨hc16, hrxcrc, hdrt, -, -⟩ := phaseStep_changes r (afterXfer (txByte s) s)
    exact ⟨by simp, by simp, hc16, hrxcrc, hdrt⟩

theorem blockStep_changes_bufByte {s t : State} {a : Nat} (h : blockStep s = .next t)
    (hne : t.bufByte a ≠ s.bufByte a) : s.phase = .rxData ∧ s.idx.toNat = a := by
  rcases blockStep_cases h with ⟨-, rfl⟩ | ⟨-, -, -, rfl⟩ | ⟨-, -, r, -, rfl⟩
  · exact absurd rfl hne
  · exact absurd rfl hne
  · exact phaseStep_changes_bufByte (s := afterXfer (txByte s) s) hne

theorem blockStep_changes_result {s t : State} (h : blockStep s = .next t) (hne : t.result ≠ s.result) :
    t.phase = .idle := by
  rcases blockStep_cases h with ⟨-, rfl⟩ | ⟨-, -, -, rfl⟩ | ⟨-, -, r, -, rfl⟩
  · exact absurd rfl hne
  · rfl
  · obtain ⟨-, -, -, -, hresult⟩ := phaseStep_changes r (afterXfer (txByte s) s)
    exact hresult hne

/-- The agents of a step, in the words the statements share: a reset, a command issued, the block's own turn, or none that
writes more than RESULT (an illegal word), OVERRUN, and what stands outside the block. -/
theorem step_agents {s t : State} (h : step s = .next t) :
    Spec.resets s ∨
    (∃ i rest, Spec.issues s i ∧ exec i { s with inputs := rest } = .next t) ∨
    (∃ rest, Spec.blockTurn s s.phase ∧ blockStep { s with inputs := rest } = .next t) ∨
    ∃ re is tr ov sel, t = { s with result := re, inputs := is, trace := tr, overrun := ov, selected := sel } := by
  rcases step_cases h with ⟨w, rest, i, hin, hidle, hdec, hx⟩ | ⟨w, rest, _, -, -, -, rfl⟩ |
    ⟨-, rest, hin, hb⟩ | ⟨rest, hin, -⟩ | ⟨is, tr, ov, sel, rfl, -, -⟩
  · exact .inr (.inl ⟨i, rest, ⟨hidle, w, rest, hin, hdec⟩, hx⟩)
  · exact .inr (.inr (.inr ⟨.illegal, rest, s.trace, s.overrun, s.selected, rfl⟩))
  · exact .inr (.inr (.inl ⟨rest, ⟨rfl, hin.imp And.left fun h => ⟨rest, h⟩⟩, hb⟩))
  · exact .inl ⟨rest, hin⟩
  · exact .inr (.inr (.inr ⟨s.result, is, tr, ov, sel, rfl⟩))

/-- Settles O29: over a step's agents, each register's writers are read off what a command and a phase write. -/
theorem onlyNamedEventsWriteTheRegisters : Obligations.OnlyNamedEventsWriteTheRegisters := by
  intro s t h
  rcases step_agents h with hreset | ⟨i, rest, hi, hx⟩ | ⟨rest, hturn, hb⟩ | ⟨re, is, tr, ov, sel, rfl⟩
  · simp [hreset]
  · obtain ⟨hc7, hc16, hrxcrc, hdrt, hrdata⟩ := exec_changes_registers hx
    have one : ∀ {j : Instr}, i = j → Spec.issues s j := fun hij => hij ▸ hi
    have any {β : Type} {j : β → Instr} : (∃ b, i = j b) → ∃ b, Spec.issues s (j b) := Exists.imp fun _ => one
    exact ⟨fun hne => .inr ((hc7 hne).imp one (.imp any any)),
      fun hne => .inr ((hc16 hne).imp one (.imp any (.imp any (.imp any fun h => .inl (any h))))),
      fun hne => .inr (.inl (any (hrxcrc hne))),
      fun hne => .inr (.inl (any (hdrt hne))),
      fun hne => .inr (any (hrdata hne))⟩
  · obtain ⟨hc7, hrdata, hc16, hrxcrc, hdrt⟩ := blockStep_changes_registers hb
    have turn : ∀ {p : Phase}, s.phase = p → Spec.blockTurn s p := fun hp => hp ▸ hturn
    exact ⟨fun hne => absurd hc7 hne,
      fun hne => .inr (.inr (.inr (.inr (.inr (.inr (turn (hc16 hne))))))),
      fun hne => .inr (.inr ((hrxcrc hne).imp turn turn)),
      fun hne => .inr (.inr (turn (hdrt hne))),
      fun hne => absurd hrdata hne⟩
  · simp

/-- Settles O30, over a step's agents: a command writes the byte at its own index, and RX_DATA the one at IDX. -/
theorem onlyBufWriteAndTheDeframerChangeBuf : Obligations.OnlyBufWriteAndTheDeframerChangeBuf := by
  refine ⟨fun s t a h hne => ?_, fun i s t hx hother a => ?_⟩
  · rcases step_agents h with hreset | ⟨i, rest, hi, hx⟩ | ⟨rest, hturn, hb⟩ | ⟨re, is, tr, ov, sel, rfl⟩
    · exact .inl hreset
    · obtain ⟨x, d, rfl, hxa⟩ := exec_changes_bufByte hx hne
      exact .inr (.inl ⟨x, d, hxa, hi⟩)
    · obtain ⟨hp, hidx⟩ := blockStep_changes_bufByte hb hne
      have hp : s.phase = .rxData := hp
      exact .inr (.inr ⟨hp ▸ hturn, hidx⟩)
    · exact absurd rfl hne
  · by_contra hne
    obtain ⟨x, d, hi, -⟩ := exec_changes_bufByte hx hne
    exact hother x d hi

/-- Settles O32, over a step's agents: only `finish`, an illegal word and a reset write RESULT, and each leaves PHASE idle. -/
theorem resultChangesOnlyAtCompletion : Obligations.ResultChangesOnlyAtCompletion := by
  refine ⟨fun s => by cases s.result <;> decide, fun s t h hne => ?_⟩
  rw [busy_eq_false_iff]
  rcases step_cases h with ⟨w, rest, i, hin, hidle, -, hx⟩ | ⟨w, rest, _, hin, hidle, -, rfl⟩ |
    ⟨hbusy, rest, hin, hb⟩ | ⟨rest, hin, rfl⟩ | ⟨is, tr, ov, sel, rfl, -, -⟩
  · exact ⟨exec_changes_result hx hne, .inr (.inr ⟨hidle, w, rest, hin⟩)⟩
  · exact ⟨(busy_eq_false_iff s).1 hidle, .inr (.inr ⟨hidle, w, rest, hin⟩)⟩
  · have hturn : Spec.blockTurn s s.phase := ⟨rfl, hin.imp And.left fun h => ⟨rest, h⟩⟩
    exact ⟨blockStep_changes_result hb hne, .inr (.inl ⟨s.phase, (busy_eq_true_iff s).1 hbusy, hturn⟩)⟩
  · exact ⟨rfl, .inl ⟨rest, hin⟩⟩
  · exact absurd rfl hne

/-! ## Bytes written since reset -/

/-- A byte written since reset does not depend on the draw (R38). -/
theorem bufByte_setDraw {s : State} {n a : Nat} (d : Nat) (h : s.bufWritten n = true) (ha : a < n) :
    ({ s with bufDraw := d } : State).bufByte a = s.bufByte a := by
  obtain ⟨v, hv⟩ := Option.isSome_iff_exists.1 ((bufWritten_iff s n).1 h a ha)
  simp only [bufByte_def, Memory.byte, hv]

theorem bufBytes_setDraw {s : State} {n : Nat} (d : Nat) (h : s.bufWritten n = true) :
    ({ s with bufDraw := d } : State).bufBytes n = s.bufBytes n :=
  bufBytes_ext fun _ ha => bufByte_setDraw d h ha

/-- A command that the idle block carries out alike under both draws answers alike. -/
theorem accept_setDraw {body : State → State} {s t : State} {d : Nat} (hidle : s.busy = false)
    (hbody : body { s with bufDraw := d } = { body s with bufDraw := d }) (h : accept body s = .next t) :
    accept body { s with bufDraw := d } = .next { t with bufDraw := d } := by
  rw [accept_of_idle body hidle] at h
  rw [accept_of_idle body (s := { s with bufDraw := d }) hidle, hbody]
  cases h
  rfl

/-- Settles O59: each of the four commands reads BUF only below LEN, where every byte is written. -/
theorem writtenBytesAloneDecideTheResult : Obligations.WrittenBytesAloneDecideTheResult := by
  intro s t n d hidle hn hw
  have hbytes := bufBytes_setDraw d hw
  have hin : crcLenInRange n = true := (crcLenInRange_iff n).2 hn
  simp only [exec, execCrc7Buf, execCrc16Buf, execSendBlock, execBufRead]
  refine ⟨accept_setDraw hidle ?_, accept_setDraw hidle ?_, accept_setDraw hidle ?_,
    fun i hi => accept_setDraw hidle ?_⟩
  · simp only [hin, if_true, hbytes, finish]
  · simp only [hin, if_true, hbytes, finish]
  · simp only [hbytes]
    split <;> rfl
  · simp only [bufIndex, bufByte_setDraw d hw hi, finish]

end Sys2Proof.Machine
end

section
/-! SUPPORT. The command encoding (30_encoding.md R60 to R73): the rows of the opcode table against the decoder, and the
round trip between words and commands, both ways. -/

namespace Sys2Proof

/-! ## The word of a command decodes to it -/

/-- The word of a command passes its own row's MASK and MATCH. -/
theorem encode_and_mask (i : Instr) : encode i &&& i.op.mask = i.op.matchWord := by
  cases i with
  | crc7Init => exact Laws.EncodeLegal.crc7Init
  | crc7Update d => exact Laws.EncodeLegal.crc7Update d
  | crc7Buf n => exact Laws.EncodeLegal.crc7Buf n
  | crc16Init => exact Laws.EncodeLegal.crc16Init
  | crc16Update d => exact Laws.EncodeLegal.crc16Update d
  | crc16Buf n => exact Laws.EncodeLegal.crc16Buf n
  | bufWrite i d => exact Laws.EncodeLegal.bufWrite i d
  | bufRead i => exact Laws.EncodeLegal.bufRead i
  | sendBlock n => exact Laws.EncodeLegal.sendBlock n
  | receiveBlock n => exact Laws.EncodeLegal.receiveBlock n
  | clrStatus => exact Laws.EncodeLegal.clrStatus

/-- Building a command from its own word takes every operand back out of the field it was put in. -/
theorem build_encode (i : Instr) : i.op.build (encode i) = i := by
  cases i with
  | crc7Init | crc16Init | clrStatus => rfl
  | crc7Update d | crc16Update d => simp only [Instr.op, Op.build, encode, dataField_formatC]
  | crc7Buf n | crc16Buf n | sendBlock n | receiveBlock n => simp only [Instr.op, Op.build, encode, lenField_formatC]
  | bufWrite i d => simp only [Instr.op, Op.build, encode, idxField_formatC, dataField_formatC]
  | bufRead i => simp only [Instr.op, Op.build, encode, idxField_formatC]

theorem op_build (o : Op) (w : Word) : (o.build w).op = o := by cases o <;> rfl

theorem opField_and (w v : Word) : opField (w &&& v) = opField w &&& opField v := BitVec.extractLsb'_and

/-- A row's MATCH fixes the whole OP field, and fixes it to the row's opcode (R66). -/
theorem opField_of_matches {w : Word} {o : Op} (h : w &&& o.mask = o.matchWord) : opField w = o.code := by
  have hmask : opField o.mask = BitVec.allOnes 4 := by cases o <;> rfl
  have hmatch : opField o.matchWord = o.code := by cases o <;> rfl
  rw [← hmatch, ← h, opField_and, hmask, BitVec.and_allOnes]

/-- The decoder takes a word by the one row whose MASK and MATCH it passes (R65). -/
theorem decode_of_matches {w : Word} {o : Op} (h : w &&& o.mask = o.matchWord) : decode w = .ok (o.build w) := by
  simp only [decode, opField_of_matches h, Op.ofCode_code, if_pos h]

/-- Settles O1: the word passes its command's row, and the row builds the command back. -/
theorem decodeOfEncodeIsTheCommand : Obligations.DecodeOfEncodeIsTheCommand := by
  intro i
  rw [decode_of_matches (encode_and_mask i), build_encode]

/-! ## A word that decodes is the word of its command -/

/-- A word is determined by its five fields (R60). -/
theorem word_ext {w v : Word} (hop : opField w = opField v) (hlen : lenField w = lenField v) (hidx : idxField w = idxField v)
    (hrsv : rsvField w = rsvField v) (hdata : dataField w = dataField v) : w = v := by
  rw [← formatC_fields w, ← formatC_fields v, hop, hlen, hidx, hrsv, hdata]

/-- No bit is passed over: each field of a row is either fixed by the row's MASK or an operand of the command it builds. -/
theorem eq_of_matches_of_build_eq {w v : Word} {o : Op} (hw : w &&& o.mask = o.matchWord) (hv : v &&& o.mask = o.matchWord)
    (hb : o.build w = o.build v) : w = v := by
  have field {start n : Nat} (hmask : o.mask.extractLsb' start n = BitVec.allOnes n) :
      w.extractLsb' start n = v.extractLsb' start n := by
    have h := congrArg (BitVec.extractLsb' start n) (hw.trans hv.symm)
    rwa [BitVec.extractLsb'_and, BitVec.extractLsb'_and, hmask, BitVec.and_allOnes, BitVec.and_allOnes] at h
  refine word_ext (field ?_) ?_ ?_ (field ?_) ?_
  case refine_1 | refine_4 => cases o <;> rfl
  case refine_2 =>
    cases o
    case crc7Buf | crc16Buf | sendBlock | receiveBlock => injection hb
    all_goals exact field rfl
  case refine_3 =>
    cases o
    case bufWrite | bufRead => injection hb
    all_goals exact field rfl
  case refine_5 =>
    cases o
    case crc7Update | crc16Update | bufWrite => injection hb
    all_goals exact field rfl

/-- Settles O2: the word and the word of its command pass the same row and build the same command. -/
theorem encodeOfDecodedWordIsTheWord : Obligations.EncodeOfDecodedWordIsTheWord := by
  intro w i h
  obtain ⟨o, -, hw, rfl⟩ := decode_ok h
  have hrow := encode_and_mask (o.build w)
  have hbuild := build_encode (o.build w)
  rw [op_build] at hrow hbuild
  exact eq_of_matches_of_build_eq hrow hw hbuild

/-! ## The rows of the opcode table -/

/-- The operations, in the order of the opcode table. -/
def Op.all : List Op :=
  [.crc7Init, .crc7Update, .crc7Buf, .crc16Init, .crc16Update, .crc16Buf, .bufWrite, .bufRead, .sendBlock, .receiveBlock,
    .clrStatus]

theorem Op.mem_all (o : Op) : o ∈ Op.all := by cases o <;> decide

/-- The row (OP, MATCH, MASK) of an operation. -/
def Op.row (o : Op) : BitVec 4 × Word × Word := (o.code, o.matchWord, o.mask)

/-- The decoder's rows are those of R66. -/
theorem mem_rows_iff (r : BitVec 4 × Word × Word) : r ∈ Spec.rows ↔ ∃ o : Op, o.row = r := by
  have hrows : Spec.rows = Op.all.map Op.row := rfl
  simp only [hrows, List.mem_map, Op.mem_all, true_and]

/-- A legal word is one that passes some operation's row: its opcode is then the row's. -/
theorem legal_iff (w : Word) : Spec.legal w ↔ ∃ o : Op, w &&& o.mask = o.matchWord := by
  constructor
  · rintro ⟨r, hr, -, hm⟩
    obtain ⟨o, rfl⟩ := (mem_rows_iff r).1 hr
    exact ⟨o, hm⟩
  · rintro ⟨o, hm⟩
    exact ⟨o.row, (mem_rows_iff _).2 ⟨o, rfl⟩, opField_of_matches hm, hm⟩

theorem decode_ok_iff_legal (w : Word) : (∃ i, decode w = .ok i) ↔ Spec.legal w := by
  rw [legal_iff]
  constructor
  · rintro ⟨i, h⟩
    obtain ⟨o, -, hm, -⟩ := decode_ok h
    exact ⟨o, hm⟩
  · rintro ⟨o, hm⟩
    exact ⟨o.build w, decode_of_matches hm⟩

theorem Op.code_injective : Function.Injective Op.code := fun o o' h =>
  Option.some_injective _ (by rw [← Op.ofCode_code o, h, Op.ofCode_code])

/-- Settles O3: two rows that one word passes have the opcode in its OP field, and no two rows share an opcode. -/
theorem legalWordsMatchExactlyOneRow : Obligations.LegalWordsMatchExactlyOneRow := by
  refine ⟨decode_ok_iff_legal, fun w r hr r' hr' hm hm' => ?_⟩
  obtain ⟨o, rfl⟩ := (mem_rows_iff r).1 hr
  obtain ⟨o', rfl⟩ := (mem_rows_iff r').1 hr'
  have hcode : o.code = o'.code := (opField_of_matches hm).symm.trans (opField_of_matches hm')
  rw [Op.code_injective hcode]

/-! ## The assembler's formulas and the sample words -/

/-- A field shifted within 32 bits loses no bit. -/
theorem toNat_setWidth_shiftLeft {n k : Nat} (x : BitVec n) (h : n + k ≤ 32) :
    (x.setWidth 32 <<< k).toNat = x.toNat <<< k := by
  have hlt : x.toNat <<< k < 2 ^ 32 := Nat.lt_of_lt_of_le (Nat.shiftLeft_lt x.isLt) (Nat.pow_le_pow_right (by omega) h)
  rw [BitVec.toNat_shiftLeft, BitVec.toNat_setWidth_of_le (by omega), Nat.mod_eq_of_lt hlt]

/-- Format C as the bitwise or of its shifted fields, the form of R71's formulas. -/
theorem formatC_eq_or (op : BitVec 4) (len : BitVec 10) (idx : BitVec 9) (rsv : BitVec 1) (data : BitVec 8) :
    formatC op len idx rsv data =
      op.setWidth 32 <<< 28 ||| len.setWidth 32 <<< 18 ||| idx.setWidth 32 <<< 9 ||| rsv.setWidth 32 <<< 8 |||
        data.setWidth 32 := by
  apply BitVec.eq_of_toNat_eq
  have hdata : (data.setWidth 32).toNat = data.toNat := BitVec.toNat_setWidth_of_le (by omega)
  simp only [formatC, BitVec.toNat_append, BitVec.toNat_or, Nat.or_assoc]
  simp only [toNat_setWidth_shiftLeft, Nat.reduceAdd, Nat.reduceLeDiff, hdata]

/-- Settles O5: each command's format, its unused fields 0, as a bitwise or. -/
theorem assemblerWordsAreTheTablesFormulas : Obligations.AssemblerWordsAreTheTablesFormulas := by
  simp [Obligations.AssemblerWordsAreTheTablesFormulas, encode, formatC_eq_or]

theorem decode_ne_ok {w : Word} {e : DecodeError} (h : decode w = .error e) (i : Instr) : decode w ≠ .ok i := by
  rw [h]
  exact nofun

/-- Settles O4: the decoder evaluated on each word. -/
theorem sampleWordsDecode : Obligations.SampleWordsDecode :=
  ⟨rfl, rfl, rfl, rfl, rfl, rfl, rfl, rfl, rfl, rfl, decode_ne_ok rfl, decode_ne_ok rfl, decode_ne_ok rfl, decode_ne_ok rfl,
    decode_ne_ok rfl⟩

end Sys2Proof
end

section
/-! SUPPORT. The command port (30_encoding.md R63 to R67), the pseudo `wait`, and the expansions of the other
pseudo-instructions (R72). -/

namespace Sys2Proof.Machine

/-! ## The decision at the port -/

/-- A write to register 0 is a word at the command port (R29). -/
theorem step_of_hostWrite {s : State} {w : Word} {rest : List Input} (h : s.inputs = .hostWrite 0#4 w :: rest) :
    step s = commandPort w { s with inputs := rest } := step_of_cons h

/-- The busy block drops a word before it looks at it (R63, R64). -/
theorem commandPort_of_busy (w : Word) {s : State} (h : s.busy = true) : commandPort w s = .next (dropCommand s) := by
  unfold commandPort
  split
  · exact exec_of_busy _ h
  · exact accept_of_busy _ h

theorem commandPort_of_decode {w : Word} {i : Instr} (s : State) (h : decode w = .ok i) : commandPort w s = exec i s := by
  simp only [commandPort, h]

/-- The idle block records ILLEGAL for a word that is no row's, and does nothing else (R65). -/
theorem commandPort_of_not_legal {w : Word} {s : State} (hidle : s.busy = false) (h : ¬ Spec.legal w) :
    commandPort w s = .next { s with result := .illegal } := by
  cases hd : decode w with
  | ok i => exact absurd ((decode_ok_iff_legal w).1 ⟨i, hd⟩) h
  | error e =>
    simp only [commandPort, hd]
    rw [rejectIllegal, accept_of_idle _ hidle, finish_of_idle _ ((busy_eq_false_iff s).1 hidle)]

/-- VALID after a command rejected with RANGE: RECEIVE_BLOCK clears it before the range check (R67, R134). -/
def validOnRange (i : Instr) (v : Bool) : Bool :=
  match i with
  | .receiveBlock _ => false
  | _ => v

/-- An idle block whose command ends with RANGE changes RESULT, and at most VALID. -/
theorem accept_of_range {body : State → State} {s : State} {v : Bool} (hidle : s.busy = false)
    (hbody : body s = finish .range { s with valid := v }) :
    accept body s = .next { s with result := .range, valid := v } := by
  have hp : ({ s with valid := v } : State).phase = .idle := (busy_eq_false_iff s).1 hidle
  rw [accept_of_idle body hidle, hbody, finish_of_idle .range hp]

/-- The idle block answers RANGE to a LEN outside R67's table, and does nothing else but clear VALID for RECEIVE_BLOCK. -/
theorem exec_of_not_wellFormed {i : Instr} {s : State} (hidle : s.busy = false) (h : i.wellFormed = false) :
    exec i s = .next { s with result := .range, valid := validOnRange i s.valid } := by
  have hlen := Bool.eq_false_iff.1 h
  cases i
  case crc7Buf | crc16Buf | sendBlock | receiveBlock =>
    simp only [exec, execCrc7Buf, execCrc16Buf, execSendBlock, execReceiveBlock]
    refine accept_of_range hidle ?_
    exact if_neg hlen
  all_goals cases h

/-- Settles O8: the four cases of R63 as the port's answers, and R67's table read off `Instr.wellFormed`. -/
theorem portDecidesInOrder : Obligations.PortDecidesInOrder := by
  refine ⟨fun s w rest hin => ?_, fun n => ?_⟩
  · rw [step_of_hostWrite hin]
    refine ⟨fun hbusy => commandPort_of_busy w hbusy, fun hidle hw => commandPort_of_not_legal hidle hw,
      fun i hidle hdec hlen => ?_, fun i _ hdec _ => commandPort_of_decode _ hdec⟩
    exact (commandPort_of_decode _ hdec).trans (exec_of_not_wellFormed (s := { s with inputs := rest }) hidle hlen)
  · simp only [Instr.wellFormed, Bool.and_eq_true, decide_eq_true_eq, and_self]

/-! ## OVERRUN -/

/-- The only command that clears OVERRUN is CLR_STATUS (R117). -/
theorem exec_clears_overrun {i : Instr} {s t : State} (h : exec i s = .next t) (hs : s.overrun = true)
    (ht : t.overrun = false) : i = .clrStatus := by
  rcases exec_cases h with ⟨-, rfl⟩ | ⟨-, hi⟩
  · cases ht
  · have hfall : t.overrun ≠ s.overrun := by rw [hs, ht]; decide
    cases i
    case clrStatus => rfl
    case sendBlock | receiveBlock => obtain ⟨-, -, rfl⟩ | ⟨-, rfl⟩ := hi <;> exact absurd rfl hfall
    case crc7Buf | crc16Buf => obtain ⟨-, rfl⟩ | ⟨-, rfl⟩ := hi <;> exact absurd rfl hfall
    all_goals
      cases hi
      exact absurd rfl hfall

theorem blockStep_overrun {s t : State} (h : blockStep s = .next t) : t.overrun = s.overrun := by
  rcases blockStep_cases h with ⟨-, rfl⟩ | ⟨-, -, -, rfl⟩ | ⟨-, -, r, -, rfl⟩
  · rfl
  · rfl
  · exact phaseStep_overrun r (afterXfer (txByte s) s)

/-- Settles O7: the port's first case, and, over everything a step can do, what clears OVERRUN. -/
theorem busyBlockDropsEveryWord : Obligations.BusyBlockDropsEveryWord := by
  refine ⟨fun s w rest hin hbusy => ?_, fun s t h hs ht => ?_⟩
  · rw [step_of_hostWrite hin]
    exact commandPort_of_busy w hbusy
  · have hfall : t.overrun ≠ s.overrun := by rw [hs, ht]; decide
    rcases step_cases h with ⟨w, rest, i, hin, hidle, hdec, hx⟩ | ⟨_, _, _, -, -, -, rfl⟩ |
      ⟨-, _, -, hb⟩ | ⟨rest, hin, -⟩ | ⟨_, _, _, _, rfl, rfl | ⟨rfl, -⟩, -⟩
    · exact .inl ⟨hidle, w, rest, hin, exec_clears_overrun hx hs ht ▸ hdec⟩
    · exact absurd rfl hfall
    · exact absurd (blockStep_overrun hb) hfall
    · exact .inr ⟨rest, hin⟩
    · exact absurd rfl hfall
    · cases ht

/-! ## The pseudo-instructions -/

/-- Settles O41: a turn of `wait` branches on bit 0 of the STATUS word it has just read, which is BUSY. -/
theorem waitPollsStatus : Obligations.WaitPollsStatus := by
  intro s rest hin
  have hbit : ({ s with inputs := rest } : State).statusWord.getLsbD 0 = s.busy := getLsbD_statusWord _ 0
  rw [step_of_cons hin, onInput, hostWait, hbit]
  exact ⟨fun hidle => by rw [hidle]; rfl, fun hbusy => by rw [hbusy]; rfl⟩

theorem assemble_of_wellFormed {l : AsmLine} (h : l.wellFormed = true) : assemble l = some l.inputs := if_pos h

/-- `buf.fill` writes the bytes at the indices from `i` on, one line of `buf.wr` each (R72). -/
theorem fillInputs_eq_flatMap (i k : Nat) (ds : List Nat) :
    fillInputs (i + k) ds = (ds.zipIdx k).flatMap fun p => (AsmLine.bufWr (i + p.2) p.1).inputs := by
  induction ds generalizing k with
  | nil => rfl
  | cons d ds ih =>
    rw [fillInputs, Nat.add_assoc, ih, List.zipIdx_cons, List.flatMap_cons]
    rfl

/-- The last index of a fill is below 512 exactly where the fill is within the buffer. -/
theorem fill_end_le_iff (i : Nat) {ds : List Nat} (h : ds ≠ []) : i + ds.length ≤ 512 ↔ i + (ds.length - 1) ≤ 511 := by
  have hpos := List.length_pos_iff.2 h
  omega

/-- Settles O42: each line's operands are in R71's ranges, and its accesses are those of the expansion's lines. -/
theorem pseudoInstructionsExpand : Obligations.PseudoInstructionsExpand := by
  refine ⟨fun b0 b1 b2 b3 b4 h0 h1 h2 h3 h4 => ?_, fun ds hne hds => ?_, fun i ds hne hds hend => ?_, fun i ds hne hend => ?_⟩
  · have hwf : (AsmLine.crc7Frame b0 b1 b2 b3 b4).wellFormed = true := by simp [AsmLine.wellFormed, h0, h1, h2, h3, h4]
    rw [assemble_of_wellFormed hwf]
    rfl
  · have hwf : (AsmLine.crc16Bytes ds).wellFormed = true := by simpa [AsmLine.wellFormed, hne] using hds
    rw [assemble_of_wellFormed hwf]
    simp [AsmLine.inputs, List.map_eq_flatMap]
  · have hwf : (AsmLine.bufFill i ds).wellFormed = true := by
      simpa [AsmLine.wellFormed, hne, (fill_end_le_iff i hne).2 hend] using hds
    rw [assemble_of_wellFormed hwf]
    exact congrArg some (fillInputs_eq_flatMap i 0 ds)
  · have hout : ¬ i + ds.length ≤ 512 := by rw [fill_end_le_iff i hne]; omega
    simp [assemble, AsmLine.wellFormed, hout]

end Sys2Proof.Machine
end

section
/-! SUPPORT. The six CRC commands at the port (40_crc.md R90 to R96), the trailer byte (R84), and what the sequencer leaves
alone (R97). -/

namespace Sys2Proof.Machine

/-! ## What every command has in common -/

theorem droppedWhileBusy (i : Instr) : Spec.DroppedWhileBusy i := fun _ h => exec_of_busy i h

/-- A word of a row's opcode that misses its MATCH is no other row's word: a row fixes the opcode (R65, R69). -/
theorem strayBitsIllegal (o : Op) : Spec.StrayBitsIllegal o.code o.matchWord o.mask := by
  intro s w rest hidle hin hop hmiss
  have hillegal : ¬ Spec.legal w := by
    rw [legal_iff]
    rintro ⟨o', hm⟩
    have hcode : o'.code = o.code := (opField_of_matches hm).symm.trans hop
    cases Op.code_injective hcode
    exact hmiss hm
  rw [step_of_hostWrite hin]
  exact commandPort_of_not_legal (s := { s with inputs := rest }) hidle hillegal

/-- On an idle block a command that makes a change and ends with `finish` answers that change with the code recorded. -/
theorem accept_finish_of_idle {s : State} (code : ResultCode) (change : State → State) (hidle : s.busy = false)
    (hphase : (change s).phase = s.phase) :
    accept (fun s => finish code (change s)) s = .next { change s with result := code } := by
  rw [accept_of_idle _ hidle, finish_of_idle code (hphase.trans ((busy_eq_false_iff s).1 hidle))]

/-! ## The commands on an idle block -/

theorem exec_crc7Init {s : State} (h : s.busy = false) :
    exec .crc7Init s = .next { s with c7 := 0x00#7, result := .ok } :=
  accept_finish_of_idle .ok (fun s => { s with c7 := crc7Start }) h rfl

theorem exec_crc7Update (d : Byte) {s : State} (h : s.busy = false) :
    exec (.crc7Update d) s = .next { s with c7 := crc7Byte s.c7 d, result := .ok } :=
  accept_finish_of_idle .ok (fun s => { s with c7 := crc7Byte s.c7 d }) h rfl

theorem exec_crc7Buf {n : BitVec 10} {s : State} (h : s.busy = false) (hn : n.toNat ≤ 512) :
    exec (.crc7Buf n) s = .next { s with c7 := crc7 (s.bufBytes n.toNat), result := .ok } := by
  simp only [exec, execCrc7Buf, if_pos ((crcLenInRange_iff n).2 hn)]
  exact accept_finish_of_idle .ok (fun s => { s with c7 := crc7 (s.bufBytes n.toNat) }) h rfl

theorem exec_crc16Init {s : State} (h : s.busy = false) :
    exec .crc16Init s = .next { s with c16 := 0x0000#16, result := .ok } :=
  accept_finish_of_idle .ok (fun s => { s with c16 := crc16Start }) h rfl

theorem exec_crc16Update (d : Byte) {s : State} (h : s.busy = false) :
    exec (.crc16Update d) s = .next { s with c16 := crc16Byte s.c16 d, result := .ok } :=
  accept_finish_of_idle .ok (fun s => { s with c16 := crc16Byte s.c16 d }) h rfl

theorem exec_crc16Buf {n : BitVec 10} {s : State} (h : s.busy = false) (hn : n.toNat ≤ 512) :
    exec (.crc16Buf n) s = .next { s with c16 := crc16 (s.bufBytes n.toNat), result := .ok } := by
  simp only [exec, execCrc16Buf, if_pos ((crcLenInRange_iff n).2 hn)]
  exact accept_finish_of_idle .ok (fun s => { s with c16 := crc16 (s.bufBytes n.toNat) }) h rfl

theorem exec_crc7Buf_of_gt {n : BitVec 10} {s : State} (h : s.busy = false) (hn : 512 < n.toNat) :
    exec (.crc7Buf n) s = .next { s with result := .range } :=
  exec_of_not_wellFormed h (decide_eq_false (Nat.not_le.2 hn))

theorem exec_crc16Buf_of_gt {n : BitVec 10} {s : State} (h : s.busy = false) (hn : 512 < n.toNat) :
    exec (.crc16Buf n) s = .next { s with result := .range } :=
  exec_of_not_wellFormed h (decide_eq_false (Nat.not_le.2 hn))

/-! ## The rules of the six commands -/

/-- Settles O9: the command's answer, the reads of a cleared C7, and the row's stray bits. -/
theorem crc7InitResetsTheGenerator : Obligations.Crc7InitResetsTheGenerator := by
  refine ⟨rfl, fun s h => exec_crc7Init h, fun s h => ?_, droppedWhileBusy _, strayBitsIllegal .crc7Init⟩
  change s.c7.setWidth 32 = 0x00000000#32 ∧ (trailer s.c7).setWidth 32 = 0x00000001#32
  rw [h]
  decide

/-- Settles O10: the command's answer, the row's word, and R91's values computed; five bytes fold as `crc7` folds them. -/
theorem crc7UpdateFeedsOneByte : Obligations.Crc7UpdateFeedsOneByte :=
  ⟨fun d _ h => exec_crc7Update d h, fun _ => droppedWhileBusy _, fun _ => encode_and_mask (.crc7Update _),
    strayBitsIllegal .crc7Update, by decide, by decide, by decide, by decide, fun _ _ _ _ _ => rfl⟩

/-- Settles O11: the command's answers on either side of the limit, and R92's example computed. -/
theorem crc7BufSumsTheBuffer : Obligations.Crc7BufSumsTheBuffer :=
  ⟨fun _ _ h hn => exec_crc7Buf h hn, fun _ _ h hn => exec_crc7Buf_of_gt h hn, fun _ => droppedWhileBusy _,
    fun _ => encode_and_mask (.crc7Buf _), strayBitsIllegal .crc7Buf, crc7_nil, by decide +kernel, by decide⟩

/-- Settles O12: the command's answer, the read of a cleared C16, and the row's stray bits. -/
theorem crc16InitResetsTheGenerator : Obligations.Crc16InitResetsTheGenerator := by
  refine ⟨rfl, fun s h => exec_crc16Init h, fun s h => ?_, droppedWhileBusy _, strayBitsIllegal .crc16Init⟩
  change s.c16.setWidth 32 = 0x00000000#32
  rw [h]
  decide

/-- Settles O13: the command's answer, the row's word, and R94's values computed. -/
theorem crc16UpdateFeedsOneByte : Obligations.Crc16UpdateFeedsOneByte :=
  ⟨fun d _ h => exec_crc16Update d h, fun _ => droppedWhileBusy _, fun _ => encode_and_mask (.crc16Update _),
    strayBitsIllegal .crc16Update, by decide, by decide, by decide, by decide, by decide⟩

/-- A long fold over one repeated string, by its values after each copy: each link of the chain is a short fold. -/
theorem foldl_flatten_replicate_of_isChain {α β : Type} {f : α → β → α} {l : List β} {c : α} {cs : List α}
    (h : List.IsChain (fun a b => l.foldl f a = b) (c :: cs)) :
    (List.replicate cs.length l).flatten.foldl f c = cs.getLastD c := by
  induction cs generalizing c with
  | nil => rfl
  | cons b cs ih =>
    obtain ⟨rfl, hrest⟩ := List.isChain_cons_cons.1 h
    rw [List.length_cons, List.replicate_succ, List.flatten_cons, List.foldl_append, ih hrest, List.getLastD_cons]

/-- C16 after each 32 bytes of a block of 0xFF. -/
def onesCheckpoints : List (BitVec 16) :=
  [0x84B4#16, 0x278E#16, 0x8A16#16, 0xEDA9#16, 0xEAFD#16, 0x9131#16, 0x7558#16, 0x1AC7#16,
    0x30D1#16, 0x8689#16, 0x96A9#16, 0x955C#16, 0xFE13#16, 0x7046#16, 0x7079#16, 0x7FA1#16]

/-- R95's example: a whole block of 0xFF. -/
theorem crc16_block_of_ones : crc16 (List.replicate 512 0xFF#8) = 0x7FA1#16 := by
  have hchain : List.IsChain (fun a b => (List.replicate 32 0xFF#8).foldl crc16Byte a = b) (crc16Start :: onesCheckpoints) := by
    decide +kernel
  have hfold := foldl_flatten_replicate_of_isChain hchain
  rwa [List.flatten_replicate_replicate] at hfold

/-- Settles O14: the command's answers on either side of the limit, and R95's example; where the payload's CRC-16 is RXCRC,
the command's answer is RXCRC. -/
theorem crc16BufSumsTheBuffer : Obligations.Crc16BufSumsTheBuffer :=
  ⟨fun _ _ h hn => exec_crc16Buf h hn, fun _ _ h hn => exec_crc16Buf_of_gt h hn, fun _ => droppedWhileBusy _,
    fun _ => encode_and_mask (.crc16Buf _), strayBitsIllegal .crc16Buf,
    fun _ _ h hn hrx => ⟨_, exec_crc16Buf h hn, hrx, rfl⟩, crc16_nil, crc16_block_of_ones⟩

/-! ## The trailer byte -/

theorem extractLsb'_trailer (c : BitVec 7) : (trailer c).extractLsb' 1 7 = c := by
  revert c
  decide

theorem getLsbD_trailer_zero (c : BitVec 7) : (trailer c).getLsbD 0 = true := by
  revert c
  decide

/-- Settles O56: the three readings of the trailer, and the frame of GO_IDLE_STATE computed. -/
theorem trailerByteOfAFrame : Obligations.TrailerByteOfAFrame :=
  ⟨fun c => ⟨trailer_eq_shift_or c, extractLsb'_trailer c, getLsbD_trailer_zero c⟩, by decide +kernel⟩

/-! ## A stream of commands -/

/-- One step carries out the command at the head of the inputs. -/
theorem step_issueInput {s : State} {i : Instr} {rest : List Input} (h : s.inputs = issueInput i :: rest) :
    step s = exec i { s with inputs := rest } := by
  rw [step_of_hostWrite h, commandPort_of_decode _ (decodeOfEncodeIsTheCommand i)]

/-- A stream of commands, one for each byte, folds what one of them does to its register; `st c` is the state with `c` in
the register. -/
theorem run_stream {w : Nat} {cmd : Byte → Instr} {feed : BitVec w → Byte → BitVec w} {st : BitVec w → State}
    (hexec : ∀ c d rest, exec (cmd d) { st c with inputs := rest } = .next { st (feed c d) with inputs := rest })
    (ds : List Byte) (c : BitVec w) :
    Host.Core.run Sys2Proof.core ds.length { st c with inputs := (ds.map cmd).map issueInput } =
      .next { st (ds.foldl feed c) with inputs := [] } := by
  induction ds generalizing c with
  | nil => rfl
  | cons d ds ih =>
    have hstep : step { st c with inputs := ((d :: ds).map cmd).map issueInput } =
        .next { st (feed c d) with inputs := (ds.map cmd).map issueInput } := (step_issueInput rfl).trans (hexec c d _)
    exact (run_succ_of_next ds.length hstep).trans (ih (feed c d))

/-- Settles O54: INIT leaves the initial value, and the stream folds the byte function from it, as the string function does. -/
theorem streamOfUpdatesEqualsTheBatch : Obligations.StreamOfUpdatesEqualsTheBatch := by
  intro s ds hidle
  refine ⟨fun hin => ⟨_, ?_, rfl⟩, fun hin => ⟨_, ?_, rfl⟩⟩
  · have hinit := (step_issueInput hin).trans (exec_crc7Init hidle)
    rw [run_succ_of_next ds.length hinit]
    exact run_stream (cmd := .crc7Update) (feed := crc7Byte) (st := fun c => { s with c7 := c, result := .ok })
      (fun _ d _ => exec_crc7Update d hidle) ds crc7Start
  · have hinit := (step_issueInput hin).trans (exec_crc16Init hidle)
    rw [run_succ_of_next ds.length hinit]
    exact run_stream (cmd := .crc16Update) (feed := crc16Byte) (st := fun c => { s with c16 := c, result := .ok })
      (fun _ d _ => exec_crc16Update d hidle) ds crc16Start

/-! ## What the sequencer leaves alone -/

/-- VALID changes only where the received CRC is checked (R138). -/
theorem phaseStep_valid (r : Byte) {s : State} (h : s.phase ≠ .rxCrcLo) : (phaseStep r s).valid = s.valid := by
  unfold phaseStep rxStart rxData rxCrcHi txStart txData txCrcHi txCrcLo txToken txBusy
  cases hp : s.phase
  case rxCrcLo => exact absurd hp h
  all_goals
    dsimp only
    repeat' split
    all_goals rfl

/-- BUF changes only where a payload byte is received (R136). -/
theorem phaseStep_buf (r : Byte) {s : State} (h : s.phase ≠ .rxData) : (phaseStep r s).buf = s.buf := by
  obtain ⟨-, -, -, hbuf, -⟩ := phaseStep_changes r s
  by_contra hne
  exact h (hbuf hne).1

/-- Settles O33, over what the block's step can answer: the idle block, `Unavail`, and a phase's use of the received byte. -/
theorem sequencerLeavesTheRestAlone : Obligations.SequencerLeavesTheRestAlone := by
  intro s t hin h
  rw [step_of_nil hin] at h
  rcases blockStep_cases h with ⟨-, rfl⟩ | ⟨-, -, -, rfl⟩ | ⟨-, -, r, -, rfl⟩
  · simp
  · simp
  · have hbuf := phaseStep_buf r (s := afterXfer (txByte s) s)
    have hvalid := phaseStep_valid r (s := afterXfer (txByte s) s)
    exact ⟨phaseStep_c7 r _, phaseStep_rdata r _, phaseStep_overrun r _, phaseStep_len r _, phaseStep_limits r _, hbuf, hvalid,
      phaseStep_bufDraw r _, phaseStep_selected r _⟩

end Sys2Proof.Machine
end

section
/-! SUPPORT. Both generators as one shift register with feedback (40_crc.md R80, R85), their forms on bits and bytes (R81,
R86), and their readings as remainders of polynomials over GF(2) (R83, R88). -/

namespace Sys2Proof.Machine

/-! ## One generator for both widths -/

/-- One step of a generator of width `w`: shift left, and fold in `g` where the message bit and the top bit differ. -/
def crcBit {w : Nat} (g c : BitVec w) (b : Bool) : BitVec w :=
  (c <<< 1) ^^^ (if b ^^ c.getLsbD (w - 1) then g else 0#w)

/-- One byte, most significant bit first (R44). -/
def crcByte {w : Nat} (g c : BitVec w) (d : Byte) : BitVec w :=
  bitsMsbFirst.foldl (fun c i => crcBit g c (d.getLsbD i)) c

theorem crc7Bit_eq_crcBit (c : BitVec 7) (b : Bool) : crc7Bit c b = crcBit 0x09#7 c b := by
  revert c b
  decide

theorem crc16Bit_eq_crcBit (c : BitVec 16) (b : Bool) : crc16Bit c b = crcBit 0x1021#16 c b := by
  unfold crc16Bit crcBit crc16Poly
  cases b ^^ c.getLsbD 15 <;> simp

theorem crc7Byte_eq_crcByte : crc7Byte = crcByte 0x09#7 := by
  funext c d
  simp only [crc7Byte, crcByte, crc7Bit_eq_crcBit]

theorem crc16Byte_eq_crcByte : crc16Byte = crcByte 0x1021#16 := by
  funext c d
  simp only [crc16Byte, crcByte, crc16Bit_eq_crcBit]

/-! ## The forms of the rules -/

/-- The byte function is linear over exclusive-or (R99). -/
theorem crc16Byte_xor (c c' : BitVec 16) (d d' : Byte) :
    crc16Byte (c ^^^ c') (d ^^^ d') = crc16Byte c d ^^^ crc16Byte c' d' := by
  simp only [crc16Byte, bitsMsbFirst, List.foldl_cons, List.foldl_nil, BitVec.getLsbD_xor, crc16Bit_xor]

/-- A byte fed into a register is a zero byte fed into the register with the byte folded into its top: by linearity it is
enough to look at the register 0. -/
theorem crc16Byte_eq_zero_byte (c : BitVec 16) (d : Byte) :
    crc16Byte c d = crc16Byte (c ^^^ (d.setWidth 16 <<< 8)) 0x00#8 := by
  have hzero : ∀ d : Byte, crc16Byte 0x0000#16 d = crc16Byte (d.setWidth 16 <<< 8) 0x00#8 := by decide +kernel
  calc crc16Byte c d
    _ = crc16Byte c 0x00#8 ^^^ crc16Byte 0x0000#16 d := by rw [← crc16Byte_xor, BitVec.xor_zero, BitVec.zero_xor]
    _ = crc16Byte (c ^^^ (d.setWidth 16 <<< 8)) 0x00#8 := by rw [hzero, ← crc16Byte_xor, BitVec.xor_self]

/-- A zero byte is eight shifts, each with feedback from the top bit alone. -/
theorem crc16Byte_zero_byte (c : BitVec 16) :
    crc16Byte c 0x00#8 = (fun c : BitVec 16 => (c <<< 1) ^^^ (if c.getLsbD 15 then 0x1021#16 else 0x0000#16))^[8] c := by
  have hshift : (fun c : BitVec 16 => (c <<< 1) ^^^ (if c.getLsbD 15 then 0x1021#16 else 0x0000#16)) =
      fun c => crc16Bit c false := by
    funext c
    rw [crc16Bit_eq_crcBit, crcBit, Bool.false_xor]
  rw [hshift]
  rfl

/-- Settles O55: the shift with feedback, the fold over a byte's bits, the zero byte after the fold into the top, and the
strings one byte at a time. -/
theorem checksumStepsHaveTheRulesForms : Obligations.ChecksumStepsHaveTheRulesForms :=
  ⟨crc7Bit_eq_crcBit, fun _ _ => rfl, fun c d => (crc16Byte_eq_zero_byte c d).trans (crc16Byte_zero_byte _),
    fun s d => ⟨crc7_snoc s d, crc16_snoc s d⟩, crc7_nil, crc16_nil⟩

/-! ## A string with its own checksum appended -/

/-- The register's own bits, fed from the top, meet no feedback: what is left is the shift. -/
theorem foldl_crcBit_own_bits {w k : Nat} (g c : BitVec w) (hk : k ≤ w) :
    ((List.range k).map (w - 1 - ·)).foldl (fun a i => crcBit g a (c.getLsbD i)) c = c <<< k := by
  induction k with
  | zero => simp
  | succ k ih =>
    have htop : (c <<< k).getLsbD (w - 1) = c.getLsbD (w - 1 - k) := by
      rw [BitVec.getLsbD_shiftLeft, decide_eq_true (by omega), decide_eq_false (by omega)]
      rfl
    rw [List.range_succ, List.map_append, List.foldl_append, ih (by omega)]
    simp only [List.map_cons, List.map_nil, List.foldl_cons, List.foldl_nil, crcBit, htop, Bool.xor_self]
    rw [if_neg Bool.false_ne_true, BitVec.xor_zero, ← BitVec.shiftLeft_add]

theorem foldl_crcBit_all_own_bits {w : Nat} (g c : BitVec w) :
    ((List.range w).map (w - 1 - ·)).foldl (fun a i => crcBit g a (c.getLsbD i)) c = 0#w := by
  rw [foldl_crcBit_own_bits g c le_rfl, BitVec.shiftLeft_eq_zero le_rfl]

theorem foldl_crc7Bit_own_bits (c : BitVec 7) :
    [6, 5, 4, 3, 2, 1, 0].foldl (fun a i => crc7Bit a (c.getLsbD i)) c = 0x00#7 := by
  simp only [crc7Bit_eq_crcBit]
  exact foldl_crcBit_all_own_bits 0x09#7 c

/-- The two bytes of a CRC-16 are its bits from the top, so fed back they leave 0. -/
theorem crc16Byte_own_bytes (c : BitVec 16) : crc16Byte (crc16Byte c (crcHi c)) (crcLo c) = 0x0000#16 := by
  rw [← foldl_crcBit_all_own_bits 0x1021#16 c, crc16Byte_eq_crcByte]
  simp [crcByte, bitsMsbFirst, crcHi, crcLo, List.range_succ]

theorem crc16_append_own (s : List Byte) : crc16 (s ++ [crcHi (crc16 s), crcLo (crc16 s)]) = 0x0000#16 := by
  rw [List.append_cons, crc16_snoc, crc16_snoc, crc16Byte_own_bytes]

theorem crc16_zeros (n : Nat) : crc16 (List.replicate n 0x00#8) = 0x0000#16 := by
  induction n with
  | zero => rfl
  | succ n ih =>
    rw [List.replicate_succ', crc16_snoc, ih]
    decide

/-! ## Bit vectors as polynomials over GF(2) -/

open Polynomial

/-- A bit as an element of GF(2). -/
def bitCoeff (b : Bool) : ZMod 2 := if b then 1 else 0

theorem bitCoeff_xor (a b : Bool) : bitCoeff (a ^^ b) = bitCoeff a + bitCoeff b := by
  revert a b
  decide

theorem coeff_bitsPoly {w : Nat} (c : BitVec w) (i : Nat) : (Spec.bitsPoly c).coeff i = bitCoeff (c.getLsbD i) := by
  have hterm : ∀ j, (if c.getLsbD j then (X : (ZMod 2)[X]) ^ j else 0).coeff i = if i = j then bitCoeff (c.getLsbD j) else 0 := by
    intro j
    cases c.getLsbD j <;> simp [bitCoeff, coeff_X_pow]
  rw [Spec.bitsPoly, finsetSum_coeff, Finset.sum_congr rfl fun j _ => hterm j, Finset.sum_ite_eq]
  by_cases hi : i < w
  · rw [if_pos (Finset.mem_range.2 hi)]
  · rw [if_neg (by simpa using hi), BitVec.getLsbD_of_ge c i (Nat.not_lt.1 hi)]
    rfl

theorem degree_bitsPoly_lt {w : Nat} (c : BitVec w) : (Spec.bitsPoly c).degree < w := by
  rw [degree_lt_iff_coeff_zero]
  intro i hi
  rw [coeff_bitsPoly, BitVec.getLsbD_of_ge c i hi]
  rfl

theorem bitsPoly_zero (w : Nat) : Spec.bitsPoly 0#w = 0 := by
  ext i
  rw [coeff_bitsPoly, BitVec.getLsbD_zero, coeff_zero]
  rfl

theorem bitsPoly_xor {w : Nat} (a b : BitVec w) : Spec.bitsPoly (a ^^^ b) = Spec.bitsPoly a + Spec.bitsPoly b := by
  ext i
  rw [coeff_add, coeff_bitsPoly, coeff_bitsPoly, coeff_bitsPoly, BitVec.getLsbD_xor, bitCoeff_xor]

theorem bitsPoly_ite {w : Nat} (g : BitVec w) (b : Bool) :
    Spec.bitsPoly (if b then g else 0#w) = C (bitCoeff b) * Spec.bitsPoly g := by
  cases b
  · simp [bitsPoly_zero, bitCoeff]
  · simp [bitCoeff]

/-- A shift is a multiplication by x, but for the bit that leaves at the top. -/
theorem bitsPoly_shiftLeft_one {w : Nat} (c : BitVec w) :
    Spec.bitsPoly (c <<< 1) + C (bitCoeff (c.getLsbD (w - 1))) * X ^ w = Spec.bitsPoly c * X := by
  ext i
  rw [coeff_add, coeff_C_mul, coeff_X_pow, coeff_bitsPoly, BitVec.getLsbD_shiftLeft]
  cases i with
  | zero =>
    rw [coeff_mul_X_zero]
    by_cases hw : 0 = w
    · subst hw
      simp [bitCoeff]
    · simp [hw, bitCoeff]
  | succ i =>
    rw [coeff_mul_X, coeff_bitsPoly]
    rcases Nat.lt_trichotomy (i + 1) w with h | rfl | h
    · simp [h, h.ne]
    · simp [bitCoeff]
    · simp [h.ne', h.not_gt, BitVec.getLsbD_of_ge c i (by omega), bitCoeff]

/-! ## The generator's remainder -/

/-- The generator polynomial: x^w and the terms of the feedback. -/
noncomputable def generatorPoly {w : Nat} (g : BitVec w) : (ZMod 2)[X] := X ^ w + Spec.bitsPoly g

theorem generatorPoly_monic {w : Nat} (g : BitVec w) : (generatorPoly g).Monic := monic_X_pow_add (degree_bitsPoly_lt g)

theorem degree_generatorPoly {w : Nat} (g : BitVec w) : (generatorPoly g).degree = w := by
  rw [generatorPoly, degree_add_eq_left_of_degree_lt (by rw [degree_X_pow]; exact degree_bitsPoly_lt g), degree_X_pow]

/-- One step multiplies by x, adds the message bit at x^w, and reduces by the generator where there is feedback. -/
theorem bitsPoly_crcBit {w : Nat} (g c : BitVec w) (b : Bool) :
    Spec.bitsPoly (crcBit g c b) =
      Spec.bitsPoly c * X + C (bitCoeff b) * X ^ w + C (bitCoeff (b ^^ c.getLsbD (w - 1))) * generatorPoly g := by
  rw [crcBit, bitsPoly_xor, bitsPoly_ite, generatorPoly, ← bitsPoly_shiftLeft_one, bitCoeff_xor, C_add]
  linear_combination (-(C (bitCoeff b) * X ^ w) - C (bitCoeff (c.getLsbD (w - 1))) * X ^ w) *
    (CharTwo.two_eq_zero : (2 : (ZMod 2)[X]) = 0)

theorem mk_bitsPoly_crcBit {w : Nat} (g c : BitVec w) (b : Bool) :
    AdjoinRoot.mk (generatorPoly g) (Spec.bitsPoly (crcBit g c b)) =
      AdjoinRoot.mk (generatorPoly g) (Spec.bitsPoly c * X + C (bitCoeff b) * X ^ w) := by
  rw [bitsPoly_crcBit, map_add, map_mul _ (C _) (generatorPoly g), AdjoinRoot.mk_self, mul_zero, add_zero]

/-- One byte multiplies by x^8 and adds the byte at x^w, up to multiples of the generator. -/
theorem mk_bitsPoly_crcByte {w : Nat} (g c : BitVec w) (d : Byte) :
    AdjoinRoot.mk (generatorPoly g) (Spec.bitsPoly (crcByte g c d)) =
      AdjoinRoot.mk (generatorPoly g) (Spec.bitsPoly c * X ^ 8 + Spec.bitsPoly d * X ^ w) := by
  have hbits : Spec.bitsPoly d = ∑ i ∈ Finset.range 8, C (bitCoeff (d.getLsbD i)) * X ^ i :=
    Finset.sum_congr rfl fun i _ => by cases d.getLsbD i <;> simp [bitCoeff]
  simp only [crcByte, bitsMsbFirst, List.foldl_cons, List.foldl_nil, mk_bitsPoly_crcBit, hbits, Finset.sum_range_succ,
    Finset.sum_range_zero, map_add, map_mul, map_pow, map_zero]
  ring

theorem messagePoly_snoc (s : List Byte) (d : Byte) :
    Spec.messagePoly (s ++ [d]) = Spec.messagePoly s * X ^ 8 + Spec.bitsPoly d := by
  induction s with
  | nil => simp [Spec.messagePoly]
  | cons e s ih =>
    rw [List.cons_append, Spec.messagePoly, ih, Spec.messagePoly, List.length_append, List.length_singleton]
    ring

theorem mk_bitsPoly_foldl_crcByte {w : Nat} (g : BitVec w) (s : List Byte) :
    AdjoinRoot.mk (generatorPoly g) (Spec.bitsPoly (s.foldl (crcByte g) 0#w)) =
      AdjoinRoot.mk (generatorPoly g) (Spec.messagePoly s * X ^ w) := by
  induction s using List.reverseRecOn with
  | nil => simp [bitsPoly_zero, Spec.messagePoly]
  | append_singleton s d ih =>
    rw [List.foldl_append, List.foldl_cons, List.foldl_nil, mk_bitsPoly_crcByte, messagePoly_snoc, map_add, map_mul, ih]
    simp only [map_add, map_mul]
    ring

/-- The register after a string is the remainder: it is of smaller degree, and congruent to the message. -/
theorem bitsPoly_foldl_crcByte {w : Nat} (g : BitVec w) (s : List Byte) :
    Spec.bitsPoly (s.foldl (crcByte g) 0#w) = (Spec.messagePoly s * X ^ w) %ₘ generatorPoly g := by
  have hdegree : (Spec.bitsPoly (s.foldl (crcByte g) 0#w)).degree < (generatorPoly g).degree := by
    rw [degree_generatorPoly]
    exact degree_bitsPoly_lt _
  rw [← (modByMonic_eq_self_iff (generatorPoly_monic g)).2 hdegree]
  exact modByMonic_eq_of_dvd_sub (generatorPoly_monic g) (AdjoinRoot.mk_eq_mk.1 (mk_bitsPoly_foldl_crcByte g s))

theorem generatorPoly_crc7 : generatorPoly 0x09#7 = X ^ 7 + X ^ 3 + 1 := by
  have hfeedback : Spec.bitsPoly 0x09#7 = 1 + X ^ 3 := by simp [Spec.bitsPoly, Finset.sum_range_succ]
  rw [generatorPoly, hfeedback]
  ring

theorem generatorPoly_crc16 : generatorPoly 0x1021#16 = X ^ 16 + X ^ 12 + X ^ 5 + 1 := by
  have hfeedback : Spec.bitsPoly 0x1021#16 = 1 + X ^ 5 + X ^ 12 := by simp [Spec.bitsPoly, Finset.sum_range_succ]
  rw [generatorPoly, hfeedback]
  ring

/-- Settles O57: the remainder by the generator of feedback 0x09, and the seven own bits fed back. -/
theorem crc7IsThePolynomialRemainder : Obligations.Crc7IsThePolynomialRemainder := by
  refine ⟨fun s => ?_, fun s => foldl_crc7Bit_own_bits (crc7 s)⟩
  rw [crc7, crc7Byte_eq_crcByte, ← generatorPoly_crc7]
  exact bitsPoly_foldl_crcByte 0x09#7 s

/-- Settles O58: the remainder by the generator of feedback 0x1021, the two own bytes fed back, and the zero bytes. -/
theorem crc16IsThePolynomialRemainder : Obligations.Crc16IsThePolynomialRemainder := by
  refine ⟨fun s => ?_, crc16_append_own, crc16_zeros⟩
  rw [crc16, crc16Byte_eq_crcByte, ← generatorPoly_crc16]
  exact bitsPoly_foldl_crcByte 0x1021#16 s

end Sys2Proof.Machine
end

section
/-! SUPPORT. The buffer and status commands (41_buffer_status.md R110 to R117), and what the STATUS word promises of BUF
(R114). -/

namespace Sys2Proof.Machine

/-! ## The commands on an idle block -/

theorem exec_bufWrite (i : BitVec 9) (d : Byte) {s : State} (h : s.busy = false) :
    exec (.bufWrite i d) s = .next { s with buf := s.buf.write i.toNat d, valid := false, result := .ok } :=
  accept_finish_of_idle .ok (fun s => { s with buf := s.buf.write i.toNat d, valid := false }) h rfl

theorem exec_bufRead (i : BitVec 9) {s : State} (h : s.busy = false) :
    exec (.bufRead i) s = .next { s with rdata := s.bufByte i.toNat, result := .ok } :=
  accept_finish_of_idle .ok (fun s => { s with rdata := s.bufByte i.toNat }) h rfl

theorem exec_clrStatus {s : State} (h : s.busy = false) :
    exec .clrStatus s = .next { s with overrun := false, result := .ok } :=
  accept_finish_of_idle .ok (fun s => { s with overrun := false }) h rfl

/-- A byte nothing wrote since reset reads as the draw at its index (R38). -/
theorem bufByte_of_unwritten {s : State} {a : Nat} (h : s.buf.read? a = none) :
    s.bufByte a = Config.bufAtReset s.bufDraw a := by
  simp only [bufByte_def, Memory.byte, h]

/-! ## The rules of the three commands, and of the other registers -/

/-- Settles O15: the answer on an idle block, BUF read back after the write, and the row's word and stray bits. -/
theorem bufWriteStoresOneByte : Obligations.BufWriteStoresOneByte :=
  ⟨fun i d _ h => ⟨_, exec_bufWrite i d h, rfl, Memory.byte_write_same _ _ _ _,
      fun _ ha => Memory.byte_write_other _ _ _ ha⟩,
    fun _ _ => droppedWhileBusy _, fun _ _ => encode_and_mask (.bufWrite _ _), rfl, strayBitsIllegal .bufWrite⟩

/-- Settles O16: the answer on an idle block, its RDATA read by the host, the unwritten byte, and the row's word. -/
theorem bufReadCopiesOneByte : Obligations.BufReadCopiesOneByte := by
  refine ⟨fun i _ h => exec_bufRead i h, fun s h hbyte => ⟨_, exec_bufRead 511#9 h, ?_⟩, fun _ _ => bufByte_of_unwritten,
    fun _ => droppedWhileBusy _, fun _ => encode_and_mask (.bufRead _), rfl, strayBitsIllegal .bufRead⟩
  change (s.bufByte 511).setWidth 32 = 0x0000005A#32
  rw [hbyte]
  rfl

/-- An idle block with VALID and OVERRUN 0 and RESULT OK reads STATUS 0 (R26). -/
theorem statusWord_eq_zero {s : State} (hbusy : s.busy = false) (hvalid : s.valid = false) (hoverrun : s.overrun = false)
    (hresult : s.result = .ok) : s.statusWord = 0x00000000#32 := by
  simp only [State.statusWord, hbusy, hvalid, hoverrun, hresult]
  rfl

/-- Settles O17: the answer on an idle block, which the example's STATUS 0x24 is, with VALID 0; and the row's stray bits. -/
theorem clrStatusClearsOverrun : Obligations.ClrStatusClearsOverrun := by
  refine ⟨rfl, fun s h => exec_clrStatus h, fun s hword => ?_, droppedWhileBusy _, strayBitsIllegal .clrStatus⟩
  obtain ⟨hbusy, hvalid, -⟩ := statusWordBits s
  rw [hword] at hbusy hvalid
  exact ⟨_, exec_clrStatus hbusy.symm, statusWord_eq_zero hbusy.symm hvalid.symm rfl rfl⟩

/-- Settles O35: a write whose register is not the command port is taken off the list, and that is all. -/
theorem writeElsewhereIsIgnored : Obligations.WriteElsewhereIsIgnored := by
  intro s n v rest hn hin
  rw [step_of_cons hin, onInput, hostWrite, if_neg hn]

/-- Settles O60: the write leaves the block idle and BUF canonical, and the read's index is the written one or another. -/
theorem byteWrittenIsTheByteReadBack : Obligations.ByteWrittenIsTheByteReadBack := by
  intro s t i j d hidle hwf hx
  rw [exec_bufWrite i d hidle] at hx
  cases hx
  refine ⟨Memory.write_wf d hwf i.isLt, ?_⟩
  rw [exec_bufRead j (s := { s with buf := s.buf.write i.toNat d, valid := false, result := .ok }) hidle]
  by_cases hji : j = i
  · rw [if_pos hji, hji, bufByte_def, Memory.byte_write_same]
  · have hne : j.toNat ≠ i.toNat := fun h => hji (BitVec.eq_of_toNat_eq h)
    rw [if_neg hji, bufByte_def, Memory.byte_write_other _ _ _ hne, bufByte_def]

/-! ## The host's reading of STATUS -/

/-- The host's test of R114 on the STATUS word is a test of BUSY, VALID and RESULT. -/
theorem maySurface_statusWord_iff (s : State) :
    maySurface s.statusWord = true ↔ s.busy = false ∧ s.valid = true ∧ s.result = .ok := by
  obtain ⟨hbusy, hvalid, -, -, hcode, -⟩ := statusWordBits s
  have hresult : s.statusWord.extractLsb' 4 3 = 0#3 ↔ s.result = .ok := by
    rw [hcode]
    cases s.result <;> decide
  simp only [maySurface, hbusy, hvalid, hresult, Bool.and_eq_true, Bool.not_eq_true', decide_eq_true_eq, and_assoc]

/-- Settles O46: STATUS shows VALID = 1, and the invariant has VALID only over a written and checked payload. -/
theorem surfacedPayloadIsChecked : Obligations.SurfacedPayloadIsChecked := by
  intro s hinv hsurface
  obtain ⟨hidle, hvalid, hresult⟩ := (maySurface_statusWord_iff s).1 hsurface
  exact ⟨hidle, hresult, hinv.validChecked hvalid⟩

end Sys2Proof.Machine
end

section
/-! SUPPORT. The block commands (42_block_framer.md R128 to R148): their issue, and what one exchange does in each phase. -/

namespace Sys2Proof.Machine

/-! ## The issue of a block command -/

theorem exec_sendBlock {n : BitVec 10} {s : State} (h : s.busy = false) (h1 : 1 ≤ n.toNat) (h512 : n.toNat ≤ 512) :
    exec (.sendBlock n) s = .next { s with
      c16 := crc16 (s.bufBytes n.toNat), drt := 0xFF#8, len := n, idx := 0#10, cnt := 0, phase := .txStart } := by
  rw [exec, execSendBlock, accept_of_idle _ h, if_pos ((blockLenInRange_iff n).2 ⟨h1, h512⟩)]
  rfl

theorem exec_receiveBlock {n : BitVec 10} {s : State} (h : s.busy = false) (h1 : 1 ≤ n.toNat) (h512 : n.toNat ≤ 512) :
    exec (.receiveBlock n) s = .next { s with
      valid := false, c16 := 0x0000#16, rxcrc := 0x0000#16, len := n, idx := 0#10, cnt := 0, phase := .rxStart } := by
  rw [exec, execReceiveBlock, accept_of_idle _ h, if_pos ((blockLenInRange_iff n).2 ⟨h1, h512⟩)]
  rfl

theorem blockCommands_not_wellFormed {n : BitVec 10} (h : n.toNat = 0 ∨ 512 < n.toNat) :
    (Instr.sendBlock n).wellFormed = false ∧ (Instr.receiveBlock n).wellFormed = false := by
  simp only [Instr.wellFormed, Bool.and_eq_false_iff, decide_eq_false_iff_not]
  omega

/-- Settles O18: the issue on an idle block, the length check, and the row's stray bits. -/
theorem sendBlockIssues : Obligations.SendBlockIssues :=
  ⟨fun _ _ h h1 h512 => exec_sendBlock h h1 h512, fun _ _ h hn => exec_of_not_wellFormed h (blockCommands_not_wellFormed hn).1,
    fun _ => droppedWhileBusy _, strayBitsIllegal .sendBlock⟩

/-- Settles O19: the issue on an idle block, the length check with VALID cleared, and the row's stray bits. -/
theorem receiveBlockIssues : Obligations.ReceiveBlockIssues := by
  refine ⟨fun _ _ h h1 h512 => exec_receiveBlock h h1 h512, fun n s h hn => ?_, fun _ => droppedWhileBusy _,
    strayBitsIllegal .receiveBlock⟩
  rw [exec_of_not_wellFormed h (blockCommands_not_wellFormed hn).2]
  rfl

/-! ## The branches of each phase -/

theorem rxStart_of_token (s : State) : rxStart 0xFE#8 s = { s with phase := .rxData, cnt := s.cnt + 1 } := rfl

theorem rxStart_of_last {r : Byte} {s : State} (hr : r ≠ 0xFE#8) (hc : s.cnt + 1 = s.limits.nStart) :
    rxStart r s = finish .timeout { s with cnt := s.cnt + 1 } := (if_neg hr).trans (if_pos hc)

theorem rxStart_of_other {r : Byte} {s : State} (hr : r ≠ 0xFE#8) (hc : s.cnt + 1 ≠ s.limits.nStart) :
    rxStart r s = { s with cnt := s.cnt + 1 } := (if_neg hr).trans (if_neg hc)

theorem rxData_of_last (r : Byte) {s : State} (hi : s.idx.toNat < 512) (h : s.idx.toNat + 1 = s.len.toNat) :
    rxData r s = { s with
      buf := s.buf.write s.idx.toNat r, c16 := crc16Byte s.c16 r, idx := s.idx + 1#10, phase := .rxCrcHi } := by
  simp only [rxData, idx_succ_eq_iff hi, h, if_true]

theorem rxData_of_other (r : Byte) {s : State} (hi : s.idx.toNat < 512) (h : s.idx.toNat + 1 ≠ s.len.toNat) :
    rxData r s = { s with
      buf := s.buf.write s.idx.toNat r, c16 := crc16Byte s.c16 r, idx := s.idx + 1#10, phase := .rxData } := by
  simp only [rxData, idx_succ_eq_iff hi, h, if_false]

theorem txData_of_last (r : Byte) {s : State} (hi : s.idx.toNat < 512) (h : s.idx.toNat + 1 = s.len.toNat) :
    txData r s = { s with idx := s.idx + 1#10, phase := .txCrcHi } := by
  simp only [txData, idx_succ_eq_iff hi, h, if_true]

theorem txData_of_other (r : Byte) {s : State} (hi : s.idx.toNat < 512) (h : s.idx.toNat + 1 ≠ s.len.toNat) :
    txData r s = { s with idx := s.idx + 1#10, phase := .txData } := by
  simp only [txData, idx_succ_eq_iff hi, h, if_false]

theorem rxCrcLo_of_eq {r : Byte} {s : State} (h : s.c16 = crcHi s.rxcrc ++ r) :
    rxCrcLo r s = finish .ok { s with rxcrc := crcHi s.rxcrc ++ r, valid := true } := if_pos h

theorem rxCrcLo_of_ne {r : Byte} {s : State} (h : s.c16 ≠ crcHi s.rxcrc ++ r) :
    rxCrcLo r s = finish .crcMismatch { s with rxcrc := crcHi s.rxcrc ++ r } := if_neg h

theorem txToken_of_token {r : Byte} (s : State) (hr : r ≠ 0xFF#8) :
    txToken r s = { s with drt := r, cnt := 0, phase := .txBusy } := if_pos hr

theorem txToken_of_last {s : State} (hc : s.cnt + 1 = s.limits.nToken) :
    txToken 0xFF#8 s = finish .timeout { s with cnt := s.cnt + 1 } := if_pos hc

theorem txToken_of_other {s : State} (hc : s.cnt + 1 ≠ s.limits.nToken) :
    txToken 0xFF#8 s = { s with cnt := s.cnt + 1 } := if_neg hc

theorem txBusy_of_idle (s : State) : txBusy 0xFF#8 s = finish (tokenResult s.drt) s := rfl

theorem txBusy_of_last {r : Byte} {s : State} (hr : r ≠ 0xFF#8) (hc : s.cnt + 1 = s.limits.nBusy) :
    txBusy r s = finish .timeout { s with cnt := s.cnt + 1 } := (if_neg hr).trans (if_pos hc)

theorem txBusy_of_other {r : Byte} {s : State} (hr : r ≠ 0xFF#8) (hc : s.cnt + 1 ≠ s.limits.nBusy) :
    txBusy r s = { s with cnt := s.cnt + 1 } := (if_neg hr).trans (if_neg hc)

theorem tokenResult_eq (d : Byte) : tokenResult d = if d.toNat % 16 = 5 then .ok else .protocol := by
  simp only [tokenResult, tokenAccepted_iff]

/-! ## The block's step as one exchange -/

/-- A payload phase has IDX short of LEN, so inside BUF. -/
theorem State.Inv.idx_lt {s : State} (h : s.Inv) (hm : s.phase.movesPayload = true) : s.idx.toNat < bufSize := by
  have hlen : s.phase ≠ .idle → s.len.toNat ≤ bufSize := fun hp => (h.lenInRange hp).2
  cases hp : s.phase
  case rxData => exact Nat.lt_of_lt_of_le (h.position_at hp) (hlen (by simp [hp]))
  case txData => exact Nat.lt_of_lt_of_le (h.position_at hp).1 (hlen (by simp [hp]))
  all_goals simp [hp, Phase.movesPayload] at hm

theorem step_of_reply {s : State} {r : Byte} (hp : s.phase ≠ .idle) (hsel : s.selected = true) (hin : s.inputs = [])
    (hi : s.phase.movesPayload = true → s.idx.toNat < bufSize) (hr : s.reply = .ok r) :
    step s = .next (phaseStep r (afterXfer (txByte s) s)) := by
  rw [step_of_nil hin, blockStep_of_busy hp hsel hi, hr]
  rfl

theorem step_of_unavail {s : State} (hp : s.phase ≠ .idle) (hsel : s.selected = true) (hin : s.inputs = [])
    (hi : s.phase.movesPayload = true → s.idx.toNat < bufSize) (hr : s.reply = .unavail) :
    step s = .next (finish .busUnavailable (afterXfer (txByte s) s)) := by
  rw [step_of_nil hin, blockStep_of_busy hp hsel hi, hr]
  rfl

/-- Where the block's step answers no next state, what it answers does not show the inputs still to come. -/
theorem blockStep_setInputs_of_not_next {s : State} (is : List Input) (h : ∀ t, blockStep s ≠ .next t) :
    blockStep { s with inputs := is } = blockStep s := by
  unfold blockStep at h ⊢
  dsimp only
  split
  case isTrue hp => exact absurd (if_pos hp) (h s)
  case isFalse hp =>
    split
    · rfl
    · split
      · rfl
      case isFalse hsel hi => exact absurd (by rw [if_neg hp, if_neg hsel, if_neg hi]) (h _)

/-- Settles O20: the guards of the block's step hold under the invariant, and what follows them makes the one exchange. -/
theorem blockStepMakesOneExchange : Obligations.BlockStepMakesOneExchange := by
  refine ⟨fun s hinv hbusy hsel hin => ?_, fun s o rest hcard => ?_, fun s hidle hin => ?_, fun s hbusy hsel hin => ?_,
    fun s rest hin => ⟨fun t ht => ?_, fun hnot => ?_⟩⟩
  · rw [step_of_nil hin, blockStep_of_busy ((busy_eq_true_iff s).1 hbusy) hsel hinv.idx_lt]
    exact ⟨_, rfl, onReply_trace _ _, onReply_card _ _⟩
  · simp only [State.reply, hcard]
  · rw [step_of_nil hin, blockStep_of_idle ((busy_eq_false_iff s).1 hidle)]
  · rw [step_of_nil hin, blockStep_of_deselected ((busy_eq_true_iff s).1 hbusy) hsel]
  · rw [step_of_cons hin]
    exact blockStep_setInputs (s := { s with inputs := [] }) rest ht
  · rw [step_of_cons hin]
    exact blockStep_setInputs_of_not_next (s := { s with inputs := [] }) rest hnot

/-- Settles O21: `finish` after the exchange, whatever the phase. -/
theorem unavailableEndsTheCommand : Obligations.UnavailableEndsTheCommand := fun s hinv hbusy hsel hin hr =>
  step_of_unavail ((busy_eq_true_iff s).1 hbusy) hsel hin hinv.idx_lt hr

/-! ## One step in each phase -/

/-- The step in a phase that does not use IDX. -/
theorem step_in_phase {p : Phase} {s : State} {r : Byte} (hp : s.phase = p) (hne : p ≠ .idle)
    (hm : p.movesPayload = false) (hsel : s.selected = true) (hin : s.inputs = []) (hr : s.reply = .ok r) :
    step s = .next (phaseStep r (afterXfer (txByte s) s)) :=
  step_of_reply (hp ▸ hne) hsel hin (fun h => by rw [hp, hm] at h; cases h) hr

/-- Settles O22: the three branches of the start-token poll; the invariant holds CNT below the limit. -/
theorem startTokenPollStep : Obligations.StartTokenPollStep := by
  intro s r hp hsel hin hr
  have hstep : step s = .next (rxStart r (afterXfer 0xFF#8 s)) := by
    simpa only [phaseStep, txByte, fillByte, afterXfer_phase, hp] using step_in_phase hp nofun rfl hsel hin hr
  refine ⟨fun htok => ?_, fun htok hc => ?_, fun htok hc => ?_, fun hinv => (hinv.position_at hp).2⟩
  · rw [hstep, htok, rxStart_of_token]
    rfl
  · rw [hstep, rxStart_of_last (s := afterXfer 0xFF#8 s) htok hc]
    rfl
  · rw [hstep, rxStart_of_other (s := afterXfer 0xFF#8 s) htok hc]
    rfl

/-- Settles O23: the byte written at IDX is read back there, and the others are as before. -/
theorem payloadByteReceivedStep : Obligations.PayloadByteReceivedStep := by
  intro s r hp hi hsel hin hr
  have hstep : step s = .next (rxData r (afterXfer 0xFF#8 s)) := by
    simpa only [phaseStep, txByte, fillByte, afterXfer_phase, hp] using step_of_reply (by simp [hp]) hsel hin (fun _ => hi) hr
  refine ⟨_, hstep, ?_, toNat_idx_succ hi, Memory.byte_write_same _ _ _ _, fun a ha => Memory.byte_write_other _ _ _ ha⟩
  simp only [rxData, afterXfer_idx, afterXfer_len, afterXfer_c16, idx_succ_eq_iff hi]

/-- Settles O24: the two CRC bytes; by the invariant C16 is that of the payload, as IDX is LEN. -/
theorem receivedCrcIsChecked : Obligations.ReceivedCrcIsChecked := by
  refine ⟨fun s r hp hsel hin hr => ?_, fun s r hp hsel hin hr => ?_⟩
  · rw [step_in_phase hp nofun rfl hsel hin hr]
    simp only [phaseStep, txByte, afterXfer_phase, hp]
    rfl
  · have hstep : step s = .next (rxCrcLo r (afterXfer 0xFF#8 s)) := by
      simpa only [phaseStep, txByte, fillByte, afterXfer_phase, hp] using step_in_phase hp nofun rfl hsel hin hr
    refine ⟨fun heq => ?_, fun hne => ?_, fun hinv => ?_⟩
    · rw [hstep, rxCrcLo_of_eq (s := afterXfer 0xFF#8 s) heq]
      rfl
    · rw [hstep, rxCrcLo_of_ne (s := afterXfer 0xFF#8 s) hne]
      rfl
    · have hidx : s.idx = s.len := hinv.position_at hp
      obtain ⟨hvalid, hc16, -⟩ := hinv.checksum_at hp
      exact ⟨hvalid, hidx ▸ hc16⟩

/-- Settles O25: the start token, then the byte at IDX. -/
theorem startTokenAndPayloadSent : Obligations.StartTokenAndPayloadSent := by
  refine ⟨fun s r hp hsel hin hr => ?_, fun s r hp hi hsel hin hr => ⟨?_, toNat_idx_succ hi⟩⟩
  · rw [step_in_phase hp nofun rfl hsel hin hr]
    simp only [phaseStep, txByte, afterXfer_phase, hp]
    rfl
  · rw [step_of_reply (by simp [hp]) hsel hin (fun _ => hi) hr]
    simp only [phaseStep, txByte, afterXfer_phase, hp, txData, afterXfer_idx, afterXfer_len, idx_succ_eq_iff hi]

/-- Settles O26: the two bytes of C16 in their order. -/
theorem crcBytesSent : Obligations.CrcBytesSent := by
  refine ⟨fun s r hp hsel hin hr => ?_, fun s r hp hsel hin hr => ?_⟩
  all_goals rw [step_in_phase hp nofun rfl hsel hin hr]
  · simp only [phaseStep, txByte, afterXfer_phase, hp]
    rfl
  · simp only [phaseStep, txByte, afterXfer_phase, hp]
    rfl

/-- Settles O27: the three branches of the token poll. -/
theorem tokenPollStep : Obligations.TokenPollStep := by
  intro s r hp hsel hin hr
  have hstep : step s = .next (txToken r (afterXfer 0xFF#8 s)) := by
    simpa only [phaseStep, txByte, fillByte, afterXfer_phase, hp] using step_in_phase hp nofun rfl hsel hin hr
  refine ⟨fun htok => ?_, fun htok hc => ?_, fun htok hc => ?_⟩
  · rw [hstep, txToken_of_token _ htok]
  · rw [hstep, htok, txToken_of_last (s := afterXfer 0xFF#8 s) hc]
    rfl
  · rw [hstep, htok, txToken_of_other (s := afterXfer 0xFF#8 s) hc]
    rfl

/-- Settles O28: the three branches of the busy poll, and the token's low nibble where the line is idle. -/
theorem busyPollStep : Obligations.BusyPollStep := by
  intro s r hp hsel hin hr
  have hstep : step s = .next (txBusy r (afterXfer 0xFF#8 s)) := by
    simpa only [phaseStep, txByte, fillByte, afterXfer_phase, hp] using step_in_phase hp nofun rfl hsel hin hr
  refine ⟨fun hff hd => ?_, fun hff hd => ?_, fun hff hc => ?_, fun hff hc => ?_⟩
  · rw [hstep, hff, txBusy_of_idle, afterXfer_drt, tokenResult_eq, if_pos hd]
    rfl
  · rw [hstep, hff, txBusy_of_idle, afterXfer_drt, tokenResult_eq, if_neg hd]
    rfl
  · rw [hstep, txBusy_of_last (s := afterXfer 0xFF#8 s) hff hc]
    rfl
  · rw [hstep, txBusy_of_other (s := afterXfer 0xFF#8 s) hff hc]
    rfl

/-! ## Where VALID rises -/

/-- No command sets VALID. -/
theorem exec_valid {i : Instr} {s t : State} (h : exec i s = .next t) (ht : t.valid = true) : s.valid = true := by
  rcases exec_cases h with ⟨-, rfl⟩ | ⟨-, hi⟩
  · exact ht
  · cases i
    case sendBlock =>
      obtain ⟨-, -, rfl⟩ | ⟨-, rfl⟩ := hi <;> exact ht
    case receiveBlock => obtain ⟨-, -, rfl⟩ | ⟨-, rfl⟩ := hi <;> cases ht
    case crc7Buf | crc16Buf => obtain ⟨-, rfl⟩ | ⟨-, rfl⟩ := hi <;> exact ht
    case bufWrite => exact nomatch (congrArg State.valid hi).symm.trans ht
    all_goals
      cases hi
      exact ht

/-- The block's step that raises VALID is the second CRC byte, right: RXCRC is then C16 (R138). -/
theorem blockStep_valid_rises {s t : State} (h : blockStep s = .next t) (hs : s.valid = false) (ht : t.valid = true) :
    s.phase = .rxCrcLo ∧
      ∃ rx, s.c16 = rx ∧ t = finish .ok { afterXfer (txByte s) s with rxcrc := rx, valid := true } := by
  have hrise : t.valid ≠ s.valid := by rw [hs, ht]; decide
  rcases blockStep_cases h with ⟨-, rfl⟩ | ⟨-, -, -, rfl⟩ | ⟨-, -, r, -, rfl⟩
  · exact absurd rfl hrise
  · exact absurd rfl hrise
  · have hp : s.phase = .rxCrcLo := by_contra fun hne => hrise (phaseStep_valid r (s := afterXfer (txByte s) s) hne)
    have hlo : phaseStep r (afterXfer (txByte s) s) = rxCrcLo r (afterXfer (txByte s) s) := by
      simp only [phaseStep, afterXfer_phase, hp]
    by_cases heq : s.c16 = crcHi s.rxcrc ++ r
    · exact ⟨hp, _, heq, hlo.trans (rxCrcLo_of_eq heq)⟩
    · rw [hlo, rxCrcLo_of_ne (s := afterXfer (txByte s) s) heq] at hrise
      exact absurd rfl hrise

/-- Settles O31, over a step's agents: only the block's step can raise VALID, and there C16 is that of the payload. -/
theorem validRisesOnlyWithACheckedPayload : Obligations.ValidRisesOnlyWithACheckedPayload := by
  intro s t hinv h hs ht
  have hrise : t.valid ≠ s.valid := by rw [hs, ht]; decide
  rcases step_cases h with ⟨_, rest, i, -, -, -, hx⟩ | ⟨_, _, _, -, -, -, rfl⟩ | ⟨-, rest, hin, hb⟩ | ⟨_, -, rfl⟩ |
    ⟨_, _, _, _, rfl, -, -⟩
  · exact absurd (exec_valid hx ht) (by simp [hs])
  · exact absurd rfl hrise
  · obtain ⟨hp, rx, hrx, rfl⟩ := blockStep_valid_rises (s := { s with inputs := rest }) hb hs ht
    have hp : s.phase = .rxCrcLo := hp
    have hrx : s.c16 = rx := hrx
    have hidx : s.idx = s.len := hinv.position_at hp
    have hc16 : s.c16 = crc16 (s.bufBytes s.idx.toNat) := (hinv.checksum_at hp).2.1
    exact ⟨⟨hp, hin.imp And.left fun h => ⟨rest, h⟩⟩, rfl, rfl, hidx ▸ hrx.symm.trans hc16, hrx⟩
  · cases ht
  · exact absurd rfl hrise

end Sys2Proof.Machine
end

section
/-! SUPPORT. Runs of the block's own steps (42_block_framer.md R128, R160): what every exchange of a run keeps, the run a
card's answers make, and the bound on the exchanges of a block command. -/

namespace Sys2Proof.Machine

/-! ## The bytes of a list of events -/

@[simp] theorem transmitted_snoc (es : List Event) (b : Byte) (o : XferResult) :
    transmitted (es ++ [.exchange b o]) = transmitted es ++ [b] := transmitted_append es _

theorem received_append (es fs : List Event) :
    Spec.received (es ++ fs) = Spec.received es ++ Spec.received fs := by
  induction es with
  | nil => rfl
  | cons e es ih =>
    match e with
    | .exchange _ (.ok r) => exact congrArg (r :: ·) ih
    | .exchange _ .unavail => exact ih
    | .hostRead _ _ => exact ih

@[simp] theorem received_snoc_ok (es : List Event) (b r : Byte) :
    Spec.received (es ++ [.exchange b (.ok r)]) = Spec.received es ++ [r] := received_append es _

@[simp] theorem received_snoc_unavail (es : List Event) (b : Byte) :
    Spec.received (es ++ [.exchange b .unavail]) = Spec.received es := by
  rw [received_append]
  exact List.append_nil _

/-! ## What a run of exchanges keeps -/

theorem run_succ_next {k : Nat} {s t : State} (h : Host.Core.run Sys2Proof.core (k + 1) s = .next t) :
    ∃ u, step s = .next u ∧ Host.Core.run Sys2Proof.core k u = .next t := by
  cases hs : step s with
  | next u => exact ⟨u, rfl, (run_succ_of_next k hs).symm.trans h⟩
  | fault r =>
    have hs : Sys2Proof.core.step s = .fault r := hs
    simp [Host.Core.run, hs] at h
  | refused r =>
    have hs : Sys2Proof.core.step s = .refused r := hs
    simp [Host.Core.run, hs] at h

theorem exchanges_of_trace {s t : State} {b : Byte} {o : XferResult} (h : t.trace = s.trace ++ [.exchange b o]) :
    t.exchanges = s.exchanges + 1 := by
  simp [State.exchanges, h, Event.isExchange]

/-- What the block's own step does outside the block: nothing while idle, else one exchange. -/
theorem blockStep_outside {s t : State} (h : blockStep s = .next t) :
    t.inputs = s.inputs ∧ (s.phase = .idle ∧ t = s ∨
      t.trace = s.trace ++ [.exchange (txByte s) s.reply] ∧ t.card = s.card.tail ∧ t.selected = s.selected) := by
  rcases blockStep_cases h with ⟨hp, rfl⟩ | ⟨-, -, -, rfl⟩ | ⟨-, -, r, -, rfl⟩
  · exact ⟨rfl, .inl ⟨hp, rfl⟩⟩
  · exact ⟨rfl, .inr ⟨rfl, rfl, rfl⟩⟩
  · exact ⟨phaseStep_inputs r _, .inr ⟨phaseStep_trace r _, phaseStep_card r _, phaseStep_selected r _⟩⟩

/-- A property of a block command's state and of the exchanges it has made that every exchange keeps, whatever its outcome,
and that does not look at the card's answers to come. -/
structure KeptByExchanges (P : List Event → State → Prop) : Prop where
  xfer : ∀ {es t} (b : Byte), P es t → P es (afterXfer b t)
  ok : ∀ {es t} (r : Byte), t.phase ≠ .idle → P es t → P (es ++ [.exchange (txByte t) (.ok r)]) (phaseStep r t)
  unavail : ∀ {es t}, t.phase ≠ .idle → P es t →
    P (es ++ [.exchange (txByte t) .unavail]) (finish .busUnavailable t)

theorem KeptByExchanges.blockStep {P : List Event → State → Prop} (hP : KeptByExchanges P) {es : List Event} {s t : State}
    (h : P es s) (hb : blockStep s = .next t) :
    s.phase = .idle ∧ t = s ∨ P (es ++ [.exchange (txByte s) s.reply]) t := by
  rcases blockStep_cases hb with ⟨hp, rfl⟩ | ⟨hp, -, hr, rfl⟩ | ⟨hp, -, r, hr, rfl⟩
  · exact .inl ⟨hp, rfl⟩
  · exact .inr (hr ▸ hP.unavail (t := afterXfer (txByte s) s) hp (hP.xfer _ h))
  · exact .inr (hr ▸ hP.ok (t := afterXfer (txByte s) s) r hp (hP.xfer _ h))

/-- A run of the block's own steps shows the exchanges it made, and keeps what every exchange keeps. -/
theorem run_keeps {P : List Event → State → Prop} (hP : KeptByExchanges P) {k : Nat} {s t : State} {es : List Event}
    (hin : s.inputs = []) (h : P es s) (hrun : Host.Core.run Sys2Proof.core k s = .next t) :
    ∃ fs, t.trace = s.trace ++ fs ∧ t.exchanges = s.exchanges + fs.length ∧ P (es ++ fs) t := by
  induction k generalizing s es with
  | zero =>
    cases hrun
    exact ⟨[], by simp, rfl, by simpa using h⟩
  | succ k ih =>
    obtain ⟨u, hstep, hrest⟩ := run_succ_next hrun
    rw [step_of_nil hin] at hstep
    obtain ⟨huin, hout⟩ := blockStep_outside hstep
    rw [hin] at huin
    rcases hP.blockStep h hstep with ⟨-, rfl⟩ | hu
    · exact ih hin h hrest
    rcases hout with ⟨-, rfl⟩ | ⟨htrace, -, -⟩
    · exact ih hin h hrest
    · obtain ⟨fs, hfs, hcount, ht⟩ := ih huin hu hrest
      refine ⟨.exchange (txByte s) s.reply :: fs, by simp [hfs, htrace], ?_, by simpa using ht⟩
      rw [hcount, exchanges_of_trace htrace, List.length_cons]
      omega

/-! ## The run the card's answers make -/

/-- What a state asks of the bytes the card still answers with: the first of them is used by the block's next step, which
asks the same of the rest. -/
structure FollowsScript (P : List Byte → State → Prop) : Prop where
  xfer : ∀ {rs t} (b : Byte), P rs t → P rs (afterXfer b t)
  busy : ∀ {r rs t}, P (r :: rs) t → t.phase ≠ .idle ∧ (t.phase.movesPayload = true → t.idx.toNat < bufSize)
  ok : ∀ {r rs t}, P (r :: rs) t → P rs (phaseStep r t)

/-- A card that answers by the script takes the block through it, one exchange for each byte. -/
theorem run_of_script {P : List Byte → State → Prop} (hP : FollowsScript P) {rs : List Byte} {s : State}
    {more : List XferResult} (h : P rs s) (hsel : s.selected = true) (hin : s.inputs = [])
    (hcard : s.card = rs.map XferResult.ok ++ more) :
    ∃ t : State, Host.Core.run Sys2Proof.core rs.length s = .next t ∧ P [] t ∧ t.card = more ∧
      t.exchanges = s.exchanges + rs.length := by
  induction rs generalizing s with
  | nil => exact ⟨s, rfl, h, hcard, rfl⟩
  | cons r rs ih =>
    obtain ⟨hp, hi⟩ := hP.busy h
    have hr : s.reply = .ok r := by simp [State.reply, hcard]
    have hstep := step_of_reply hp hsel hin hi hr
    have hcard' : (afterXfer (txByte s) s).card = rs.map XferResult.ok ++ more := by simp [hcard]
    obtain ⟨t, hrun, ht, hmore, hcount⟩ := ih (hP.ok (hP.xfer (txByte s) h)) (by simpa using hsel) (by simpa using hin)
      (by simpa using hcard')
    refine ⟨t, (run_succ_of_next rs.length hstep).trans hrun, ht, hmore, ?_⟩
    rw [hcount, exchanges_of_trace (phaseStep_trace r (afterXfer (txByte s) s)), List.length_cons]
    show s.exchanges + 1 + rs.length = s.exchanges + (rs.length + 1)
    omega

/-! ## The bound on the exchanges of a block command -/

theorem exchangesLeft_of_idle {s : State} (h : s.phase = .idle) : s.exchangesLeft = 0 := by
  simp only [State.exchangesLeft, h]

theorem exchangesLeft_pos {s : State} (h : s.Inv) (hp : s.phase ≠ .idle) : 0 < s.exchangesLeft := by
  unfold State.exchangesLeft
  cases hs : s.phase
  case idle => exact absurd hs hp
  case txToken =>
    obtain ⟨-, hcnt⟩ : s.idx = s.len ∧ s.cnt < s.limits.nToken := h.position_at hs
    dsimp only
    omega
  case txBusy =>
    obtain ⟨-, hcnt⟩ : s.idx = s.len ∧ s.cnt < s.limits.nBusy := h.position_at hs
    dsimp only
    omega
  all_goals
    dsimp only
    omega

/-- Each exchange leaves one fewer, or ends the command. -/
theorem phaseStep_exchangesLeft (r : Byte) {s : State} (h : s.Inv) (hp : s.phase ≠ .idle) :
    (phaseStep r s).exchangesLeft < s.exchangesLeft := by
  have ends {t : State} (ht : t.phase = .idle) : t.exchangesLeft < s.exchangesLeft :=
    (exchangesLeft_of_idle ht).trans_lt (exchangesLeft_pos h hp)
  cases hs : s.phase <;> simp only [phaseStep, hs]
  case idle => exact absurd hs hp
  case rxStart =>
    obtain ⟨hidx, hcnt⟩ : s.idx = 0#10 ∧ s.cnt < s.limits.nStart := h.position_at hs
    by_cases hr : r = 0xFE#8
    · rw [hr, rxStart_of_token]
      have hidx : s.idx.toNat = 0 := congrArg BitVec.toNat hidx
      simp only [State.exchangesLeft, hs]
      omega
    by_cases hc : s.cnt + 1 = s.limits.nStart
    · rw [rxStart_of_last hr hc]
      exact ends rfl
    · rw [rxStart_of_other hr hc]
      simp only [State.exchangesLeft, hs]
      omega
  case rxData =>
    have hidx : s.idx.toNat < s.len.toNat := h.position_at hs
    have hi : s.idx.toNat < 512 := h.idx_lt (by rw [hs]; rfl)
    by_cases hlast : s.idx.toNat + 1 = s.len.toNat
    · rw [rxData_of_last r hi hlast]
      simp only [State.exchangesLeft, hs]
      omega
    · rw [rxData_of_other r hi hlast]
      simp only [State.exchangesLeft, hs, toNat_idx_succ hi]
      omega
  case rxCrcHi =>
    simp only [State.exchangesLeft, hs, rxCrcHi]
    omega
  case rxCrcLo =>
    by_cases heq : s.c16 = crcHi s.rxcrc ++ r
    · rw [rxCrcLo_of_eq heq]
      exact ends rfl
    · rw [rxCrcLo_of_ne heq]
      exact ends rfl
  case txStart =>
    obtain ⟨hidx, -⟩ : s.idx = 0#10 ∧ s.cnt = 0 := h.position_at hs
    have hidx : s.idx.toNat = 0 := congrArg BitVec.toNat hidx
    simp only [State.exchangesLeft, hs, txStart]
    omega
  case txData =>
    obtain ⟨hidx, -⟩ : s.idx.toNat < s.len.toNat ∧ s.cnt = 0 := h.position_at hs
    have hi : s.idx.toNat < 512 := h.idx_lt (by rw [hs]; rfl)
    by_cases hlast : s.idx.toNat + 1 = s.len.toNat
    · rw [txData_of_last r hi hlast]
      simp only [State.exchangesLeft, hs]
      omega
    · rw [txData_of_other r hi hlast]
      simp only [State.exchangesLeft, hs, toNat_idx_succ hi]
      omega
  case txCrcHi =>
    simp only [State.exchangesLeft, hs, txCrcHi]
    omega
  case txCrcLo =>
    simp only [State.exchangesLeft, hs, txCrcLo]
    omega
  case txToken =>
    obtain ⟨-, hcnt⟩ : s.idx = s.len ∧ s.cnt < s.limits.nToken := h.position_at hs
    by_cases hr : r = 0xFF#8
    · subst hr
      by_cases hc : s.cnt + 1 = s.limits.nToken
      · rw [txToken_of_last hc]
        exact ends rfl
      · rw [txToken_of_other hc]
        simp only [State.exchangesLeft, hs]
        omega
    · rw [txToken_of_token s hr]
      simp only [State.exchangesLeft, hs]
      omega
  case txBusy =>
    obtain ⟨-, hcnt⟩ : s.idx = s.len ∧ s.cnt < s.limits.nBusy := h.position_at hs
    by_cases hr : r = 0xFF#8
    · rw [hr, txBusy_of_idle]
      exact ends rfl
    by_cases hc : s.cnt + 1 = s.limits.nBusy
    · rw [txBusy_of_last hr hc]
      exact ends rfl
    · rw [txBusy_of_other hr hc]
      simp only [State.exchangesLeft, hs]
      omega

theorem blockStep_exchangesLeft {s t : State} (h : s.Inv) (hp : s.phase ≠ .idle) (hb : blockStep s = .next t) :
    t.exchangesLeft < s.exchangesLeft := by
  rcases blockStep_cases hb with ⟨hidle, -⟩ | ⟨-, -, -, rfl⟩ | ⟨-, -, r, -, rfl⟩
  · exact absurd hidle hp
  · exact (exchangesLeft_of_idle rfl).trans_lt (exchangesLeft_pos h hp)
  · exact phaseStep_exchangesLeft r (afterXfer_inv _ h) hp

/-- Every block command ends, one exchange a step, within the exchanges left to it. -/
theorem run_to_idle {s : State} (hinv : s.Inv) (hsel : s.selected = true) (hin : s.inputs = []) :
    ∃ (k : Nat) (t : State), k ≤ s.exchangesLeft ∧ Host.Core.run Sys2Proof.core k s = .next t ∧ t.busy = false ∧
      t.exchanges = s.exchanges + k := by
  induction hm : s.exchangesLeft using Nat.strong_induction_on generalizing s with
  | _ m ih =>
    subst hm
    by_cases hp : s.phase = .idle
    · exact ⟨0, s, Nat.zero_le _, rfl, (busy_eq_false_iff s).2 hp, rfl⟩
    have hb := blockStep_of_busy hp hsel hinv.idx_lt
    obtain ⟨huin, ⟨hidle, -⟩ | ⟨htrace, -, husel⟩⟩ := blockStep_outside hb
    · exact absurd hidle hp
    have hlt := blockStep_exchangesLeft hinv hp hb
    obtain ⟨k, t, hk, hrun, hidle, hcount⟩ := ih _ hlt (blockStep_inv hinv hb) (husel.trans hsel) (huin.trans hin) rfl
    refine ⟨k + 1, t, by omega, ?_, hidle, ?_⟩
    · rw [run_succ_of_next k ((step_of_nil hin).trans hb), hrun]
    · rw [hcount, exchanges_of_trace htrace]
      omega

/-- Settles O47: the measure falls at each exchange, and at issue it is R160's bound. -/
theorem blockCommandEndsWithinItsBound : Obligations.BlockCommandEndsWithinItsBound := by
  refine ⟨fun s hinv hsel hin => run_to_idle hinv hsel hin, fun s t n hidle h1 h512 => ⟨fun hx => ?_, fun hx => ?_⟩⟩
  · rw [exec_receiveBlock hidle h1 h512] at hx
    cases hx
    rfl
  · rw [exec_sendBlock hidle h1 h512] at hx
    cases hx
    rfl

end Sys2Proof.Machine
end

section
/-! SUPPORT. RECEIVE_BLOCK whole (42_block_framer.md R126, R134 to R139): what it leaves alone and transmits, the bytes it
has taken in each phase and at its end, and the answers that take it to OK. -/

namespace Sys2Proof.Machine

/-! ## What a receive leaves alone, and what it transmits -/

/-- The phases of a RECEIVE_BLOCK, and IDLE where it has ended. -/
def Phase.receives : Phase → Bool
  | .idle | .rxStart | .rxData | .rxCrcHi | .rxCrcLo => true
  | .txStart | .txData | .txCrcHi | .txCrcLo | .txToken | .txBusy => false

/-- A receive issued in state `s`, after the events `es`: BUF from IDX on is as it was, and every byte transmitted was the fill
byte (R48, R136). -/
structure ReceiveFrame (s : State) (es : List Event) (t : State) : Prop where
  receives : t.phase.receives = true
  lenInRange : t.len.toNat ≤ 512
  idxInPayload : t.idx.toNat ≤ t.len.toNat
  idxShort : t.phase = .rxStart ∨ t.phase = .rxData → t.idx.toNat < t.len.toNat
  untouched : ∀ a, t.idx.toNat ≤ a → t.bufByte a = s.bufByte a
  sent : transmitted es = List.replicate es.length 0xFF#8

theorem txByte_of_receives {t : State} (h : t.phase.receives = true) : txByte t = 0xFF#8 := by
  unfold txByte
  cases hp : t.phase
  case idle | rxStart | rxData | rxCrcHi | rxCrcLo => rfl
  all_goals
    rw [hp] at h
    cases h

theorem ReceiveFrame.sent_snoc {s t : State} {es : List Event} (h : ReceiveFrame s es t) (o : XferResult) :
    transmitted (es ++ [.exchange (txByte t) o]) = List.replicate (es ++ [Event.exchange (txByte t) o]).length 0xFF#8 := by
  rw [transmitted_snoc, h.sent, txByte_of_receives h.receives, List.length_append, List.length_singleton, List.replicate_succ']

/-- A payload byte stored at IDX leaves the bytes after it, and IDX one further. -/
theorem untouched_write {s t : State} {r : Byte} (hi : t.idx.toNat < 512)
    (h : ∀ a, t.idx.toNat ≤ a → t.bufByte a = s.bufByte a) (a : Nat) (ha : (t.idx + 1#10).toNat ≤ a) :
    (t.buf.write t.idx.toNat r).byte t.bufDraw a = s.bufByte a := by
  rw [toNat_idx_succ hi] at ha
  rw [Memory.byte_write_other _ _ _ (by omega)]
  exact h a (by omega)

theorem receiveFrame_phaseStep {s t : State} {es : List Event} (r : Byte) (hp : t.phase ≠ .idle) (h : ReceiveFrame s es t) :
    ReceiveFrame s (es ++ [.exchange (txByte t) (.ok r)]) (phaseStep r t) := by
  have hsent := h.sent_snoc (.ok r)
  cases hs : t.phase <;> simp only [phaseStep, hs]
  case idle => exact absurd hs hp
  case rxStart =>
    have hshort := h.idxShort (.inl hs)
    by_cases hr : r = 0xFE#8
    · subst hr
      exact { h with receives := rfl, idxShort := fun _ => hshort, sent := hsent }
    by_cases hc : t.cnt + 1 = t.limits.nStart
    · rw [rxStart_of_last hr hc]
      exact { h with receives := rfl, idxShort := fun _ => hshort, sent := hsent }
    · rw [rxStart_of_other hr hc]
      exact { h with sent := hsent }
  case rxData =>
    have hshort := h.idxShort (.inr hs)
    have hi : t.idx.toNat < 512 := Nat.lt_of_lt_of_le hshort h.lenInRange
    have hsucc := toNat_idx_succ hi
    by_cases hlast : t.idx.toNat + 1 = t.len.toNat
    · rw [rxData_of_last r hi hlast]
      exact
        { h with
          receives := rfl
          idxInPayload := (hsucc.trans hlast).le
          idxShort := by simp
          untouched := untouched_write hi h.untouched
          sent := hsent }
    · rw [rxData_of_other r hi hlast]
      exact
        { h with
          receives := rfl
          idxInPayload := hsucc.trans_le hshort
          idxShort := fun _ => hsucc.trans_lt (Nat.lt_of_le_of_ne hshort hlast)
          untouched := untouched_write hi h.untouched
          sent := hsent }
  case rxCrcHi => exact { h with receives := rfl, idxShort := by simp [rxCrcHi], sent := hsent }
  case rxCrcLo =>
    by_cases heq : t.c16 = crcHi t.rxcrc ++ r
    · rw [rxCrcLo_of_eq heq]
      exact { h with receives := rfl, idxShort := by simp, sent := hsent }
    · rw [rxCrcLo_of_ne heq]
      exact { h with receives := rfl, idxShort := by simp, sent := hsent }
  all_goals
    have hreceives := h.receives
    rw [hs] at hreceives
    cases hreceives

theorem receiveFrame_kept (s : State) : KeptByExchanges (ReceiveFrame s) where
  xfer _ h := { h with }
  ok r hp h := receiveFrame_phaseStep r hp h
  unavail _ h := { h with receives := rfl, idxShort := by simp, sent := h.sent_snoc .unavail }

/-- The state in which an accepted RECEIVE_BLOCK leaves the block (R134). -/
def receiveIssued (n : BitVec 10) (s : State) : State :=
  { s with valid := false, c16 := 0x0000#16, rxcrc := 0x0000#16, len := n, idx := 0#10, cnt := 0, phase := .rxStart }

theorem receiveFrame_issued (s : State) {n : BitVec 10} (h1 : 1 ≤ n.toNat) (h512 : n.toNat ≤ 512) :
    ReceiveFrame s [] (receiveIssued n s) where
  receives := rfl
  lenInRange := h512
  idxInPayload := Nat.zero_le _
  idxShort _ := h1
  untouched _ _ := rfl
  sent := rfl

/-! ## What a receive has taken, whatever the card answers -/

/-- The rows of R139, by the bytes `rs` received in `k` exchanges: `junk` before the start token, then as far into the payload
as IDX says, then the CRC. -/
def ReceiveOutcome (k : Nat) (rs junk : List Byte) (t : State) : Prop :=
  ((t.result = .ok ∧ t.valid = true ∧ t.rxcrc = t.c16 ∨ t.result = .crcMismatch ∧ t.valid = false ∧ t.rxcrc ≠ t.c16) ∧
    t.idx = t.len ∧ junk.length < t.limits.nStart ∧ k = rs.length ∧
    rs = junk ++ 0xFE#8 :: (t.bufBytes t.idx.toNat ++ [crcHi t.rxcrc, crcLo t.rxcrc])) ∨
  (t.result = .timeout ∧ t.valid = false ∧ t.idx = 0#10 ∧ t.rxcrc = 0x0000#16 ∧ k = t.limits.nStart ∧ rs = junk) ∨
  (t.result = .busUnavailable ∧ t.valid = false ∧ k = rs.length + 1 ∧
    ((t.idx = 0#10 ∧ rs = junk ∧ t.rxcrc = 0x0000#16) ∨
     (rs = junk ++ 0xFE#8 :: t.bufBytes t.idx.toNat ∧ t.rxcrc = 0x0000#16) ∨
     (t.idx = t.len ∧ ∃ hi : Byte, t.rxcrc = hi ++ 0x00#8 ∧ rs = junk ++ 0xFE#8 :: (t.bufBytes t.idx.toNat ++ [hi]))))

/-- What a receive has taken in each phase. -/
def ReceiveProgress (k : Nat) (rs junk : List Byte) (t : State) : Prop :=
  match t.phase with
  | .idle => ReceiveOutcome k rs junk t
  | .rxStart => k = rs.length ∧ rs = junk ∧ junk.length = t.cnt
  | .rxData => k = rs.length ∧ junk.length < t.limits.nStart ∧ rs = junk ++ 0xFE#8 :: t.bufBytes t.idx.toNat
  | .rxCrcHi => k = rs.length ∧ junk.length < t.limits.nStart ∧ rs = junk ++ 0xFE#8 :: t.bufBytes t.idx.toNat
  | .rxCrcLo =>
    k = rs.length ∧ junk.length < t.limits.nStart ∧
      rs = junk ++ 0xFE#8 :: (t.bufBytes t.idx.toNat ++ [crcHi t.rxcrc])
  | .txStart | .txData | .txCrcHi | .txCrcLo | .txToken | .txBusy => False

/-- A receive of `n` bytes issued in state `s`, after the events `es`. -/
structure ReceiveHistory (s : State) (n : BitVec 10) (es : List Event) (t : State) : Prop where
  inv : t.Inv
  frame : ReceiveFrame s es t
  len : t.len = n
  limits : t.limits = s.limits
  checksum : t.c16 = crc16 (t.bufBytes t.idx.toNat)
  progress : ∃ junk : List Byte, (∀ b ∈ junk, b ≠ 0xFE#8) ∧ ReceiveProgress es.length (Spec.received es) junk t

/-- The byte stored at IDX is the next of the payload in BUF. -/
theorem bufBytes_write_idx (r : Byte) {t : State} (hi : t.idx.toNat < 512) :
    ({ t with buf := t.buf.write t.idx.toNat r } : State).bufBytes (t.idx + 1#10).toNat = t.bufBytes t.idx.toNat ++ [r] := by
  rw [toNat_idx_succ hi, bufBytes_succ_write]

/-- C16 goes on being the checksum of the payload bytes in BUF: only RX_DATA writes it, BUF or IDX. -/
theorem phaseStep_checksum (r : Byte) {t : State} (hreceives : t.phase.receives = true)
    (hi : t.phase.movesPayload = true → t.idx.toNat < 512) (h : t.c16 = crc16 (t.bufBytes t.idx.toNat)) :
    (phaseStep r t).c16 = crc16 ((phaseStep r t).bufBytes (phaseStep r t).idx.toNat) := by
  cases hs : t.phase <;> simp only [phaseStep, hs]
  case idle => exact h
  case rxStart =>
    unfold rxStart
    dsimp only
    split
    · exact h
    · split <;> exact h
  case rxData =>
    have hbytes := bufBytes_write_idx r (hi (by rw [hs]; rfl))
    exact (congrArg (crc16Byte · r) h).trans ((crc16_snoc _ r).symm.trans (congrArg crc16 hbytes.symm))
  case rxCrcHi => exact h
  case rxCrcLo =>
    unfold rxCrcLo
    dsimp only
    split <;> exact h
  all_goals
    rw [hs] at hreceives
    cases hreceives

theorem receiveProgress_phaseStep (r : Byte) {t : State} {k : Nat} {rs junk : List Byte} (hp : t.phase ≠ .idle) (hinv : t.Inv)
    (hjunk : ∀ b ∈ junk, b ≠ 0xFE#8) (h : ReceiveProgress k rs junk t) :
    ∃ junk : List Byte, (∀ b ∈ junk, b ≠ 0xFE#8) ∧ ReceiveProgress (k + 1) (rs ++ [r]) junk (phaseStep r t) := by
  have hlength (hk : k = rs.length) : k + 1 = (rs ++ [r]).length := by rw [hk, List.length_append, List.length_singleton]
  cases hs : t.phase <;> simp only [phaseStep, hs] <;> simp only [ReceiveProgress, hs] at h
  case idle => exact absurd hs hp
  case rxStart =>
    obtain ⟨hk, rfl, hcnt⟩ := h
    obtain ⟨hidx, hlt⟩ : t.idx = 0#10 ∧ t.cnt < t.limits.nStart := hinv.position_at hs
    obtain ⟨hvalid, -, hrx⟩ := hinv.checksum_at hs
    by_cases hr : r = 0xFE#8
    · subst hr
      refine ⟨rs, hjunk, hlength hk, hcnt.trans_lt hlt, ?_⟩
      show rs ++ [0xFE#8] = rs ++ 0xFE#8 :: t.bufBytes t.idx.toNat
      rw [hidx]
      rfl
    have hjunk' : ∀ b ∈ rs ++ [r], b ≠ 0xFE#8 := by simpa [or_imp, forall_and, hr] using hjunk
    refine ⟨rs ++ [r], hjunk', ?_⟩
    by_cases hc : t.cnt + 1 = t.limits.nStart
    · rw [rxStart_of_last hr hc]
      exact .inr (.inl ⟨rfl, hvalid, hidx, hrx, (by omega : k + 1 = t.limits.nStart), rfl⟩)
    · rw [rxStart_of_other hr hc]
      simp only [ReceiveProgress, hs]
      exact ⟨hlength hk, trivial, by simp [hcnt]⟩
  case rxData =>
    obtain ⟨hk, hlt, rfl⟩ := h
    have hi : t.idx.toNat < 512 := hinv.idx_lt (by rw [hs]; rfl)
    have hbytes : junk ++ 0xFE#8 :: t.bufBytes t.idx.toNat ++ [r] =
        junk ++ 0xFE#8 :: ({ t with buf := t.buf.write t.idx.toNat r } : State).bufBytes (t.idx + 1#10).toNat := by
      rw [bufBytes_write_idx r hi, List.append_assoc, List.cons_append]
    refine ⟨junk, hjunk, ?_⟩
    by_cases hlast : t.idx.toNat + 1 = t.len.toNat
    · rw [rxData_of_last r hi hlast]
      exact ⟨hlength hk, hlt, hbytes⟩
    · rw [rxData_of_other r hi hlast]
      exact ⟨hlength hk, hlt, hbytes⟩
  case rxCrcHi =>
    obtain ⟨hk, hlt, rfl⟩ := h
    refine ⟨junk, hjunk, hlength hk, hlt, ?_⟩
    show _ = junk ++ 0xFE#8 :: (t.bufBytes t.idx.toNat ++ [crcHi (r ++ 0x00#8)])
    rw [crcHi_append, List.append_assoc, List.cons_append]
  case rxCrcLo =>
    obtain ⟨hk, hlt, rfl⟩ := h
    have hidx : t.idx = t.len := hinv.position_at hs
    obtain ⟨hvalid, -⟩ := hinv.checksum_at hs
    have hbytes : junk ++ 0xFE#8 :: (t.bufBytes t.idx.toNat ++ [crcHi t.rxcrc]) ++ [r] = junk ++ 0xFE#8 ::
        (t.bufBytes t.idx.toNat ++ [crcHi (crcHi t.rxcrc ++ r), crcLo (crcHi t.rxcrc ++ r)]) := by
      simp [crcHi_append, crcLo_append]
    refine ⟨junk, hjunk, ?_⟩
    by_cases heq : t.c16 = crcHi t.rxcrc ++ r
    · rw [rxCrcLo_of_eq heq]
      exact .inl ⟨.inl ⟨rfl, rfl, heq.symm⟩, hidx, hlt, hlength hk, hbytes⟩
    · rw [rxCrcLo_of_ne heq]
      exact .inl ⟨.inr ⟨rfl, hvalid, Ne.symm heq⟩, hidx, hlt, hlength hk, hbytes⟩

/-- `Unavail` ends the receive with what it has taken. -/
theorem receiveProgress_unavail {t : State} {k : Nat} {rs junk : List Byte} (hp : t.phase ≠ .idle) (hinv : t.Inv)
    (h : ReceiveProgress k rs junk t) : ReceiveProgress (k + 1) rs junk (finish .busUnavailable t) := by
  refine .inr (.inr ?_)
  cases hs : t.phase <;> simp only [ReceiveProgress, hs] at h
  case idle => exact absurd hs hp
  case rxStart =>
    obtain ⟨hk, hrs, -⟩ := h
    obtain ⟨hidx, -⟩ : t.idx = 0#10 ∧ t.cnt < t.limits.nStart := hinv.position_at hs
    obtain ⟨hvalid, -, hrx⟩ := hinv.checksum_at hs
    exact ⟨rfl, hvalid, congrArg (· + 1) hk, .inl ⟨hidx, hrs, hrx⟩⟩
  case rxData | rxCrcHi =>
    obtain ⟨hk, -, hrs⟩ := h
    obtain ⟨hvalid, -, -, hrx⟩ := hinv.checksum_at hs
    exact ⟨rfl, hvalid, congrArg (· + 1) hk, .inr (.inl ⟨hrs, hrx⟩)⟩
  case rxCrcLo =>
    obtain ⟨hk, -, hrs⟩ := h
    have hidx : t.idx = t.len := hinv.position_at hs
    obtain ⟨hvalid, -, -, hlo⟩ := hinv.checksum_at hs
    have hrx : t.rxcrc = crcHi t.rxcrc ++ 0x00#8 :=
      (crcHi_append_crcLo t.rxcrc).symm.trans (congrArg (crcHi t.rxcrc ++ ·) hlo)
    exact ⟨rfl, hvalid, congrArg (· + 1) hk, .inr (.inr ⟨hidx, crcHi t.rxcrc, hrx, hrs⟩)⟩

theorem receiveHistory_kept (s : State) (n : BitVec 10) : KeptByExchanges (ReceiveHistory s n) where
  xfer b h := { h with inv := afterXfer_inv b h.inv, frame := (receiveFrame_kept s).xfer b h.frame }
  ok r hp h := by
    obtain ⟨junk, hjunk, hprogress⟩ := h.progress
    exact
      { inv := phaseStep_inv r h.inv
        frame := receiveFrame_phaseStep r hp h.frame
        len := (phaseStep_len r _).trans h.len
        limits := (phaseStep_limits r _).trans h.limits
        checksum := phaseStep_checksum r h.frame.receives h.inv.idx_lt h.checksum
        progress := by
          rw [List.length_append, received_snoc_ok]
          exact receiveProgress_phaseStep r hp h.inv hjunk hprogress }
  unavail hp h := by
    obtain ⟨junk, hjunk, hprogress⟩ := h.progress
    exact
      { h with
        inv := h.inv.phaseFree.inv_finish .busUnavailable
        frame := (receiveFrame_kept s).unavail hp h.frame
        progress := by
          rw [List.length_append, received_snoc_unavail]
          exact ⟨junk, hjunk, receiveProgress_unavail hp h.inv hprogress⟩ }

theorem receiveHistory_issued {s : State} {n : BitVec 10} (hinv : s.Inv) (h1 : 1 ≤ n.toNat) (h512 : n.toNat ≤ 512) :
    ReceiveHistory s n [] (receiveIssued n s) where
  inv := receiveBlock_issue_inv hinv h1 h512
  frame := receiveFrame_issued s h1 h512
  len := rfl
  limits := rfl
  checksum := rfl
  progress := ⟨[], nofun, rfl, rfl, rfl⟩

/-- Settles O48: the receive ends (R160), and at its end the history of its exchanges is a row of R139. -/
theorem receiveEndsInOneOfItsOutcomes : Obligations.ReceiveEndsInOneOfItsOutcomes := by
  intro s n hinv hidle hsel hin h1 h512
  have hissued := receiveHistory_issued hinv h1 h512
  obtain ⟨k, t, hbound, hrun, htidle, hcount⟩ := run_to_idle hissued.inv hsel hin
  obtain ⟨es, htrace, hlength, h⟩ := run_keeps (s := receiveIssued n s) (receiveHistory_kept s n) hin hissued hrun
  rw [List.nil_append] at h
  obtain ⟨junk, hjunk, hprogress⟩ := h.progress
  have hk : es.length = k := Nat.add_left_cancel (hlength.symm.trans hcount)
  have hbound : k ≤ s.limits.nStart + n.toNat + 2 := hbound
  simp only [ReceiveProgress, (busy_eq_false_iff t).1 htidle, ReceiveOutcome, h.limits, h.len, hk] at hprogress
  refine ⟨receiveIssued n s, t, k, es, junk, exec_receiveBlock hidle h1 h512, hrun, htidle, htrace, hk,
    hk ▸ h.frame.sent, hjunk, ?_⟩
  have hchecksum := h.checksum
  have huntouched := h.frame.untouched
  rcases hprogress with ⟨hres, hidx, hlt, hkr, hrs⟩ | ⟨hres, hvalid, hidx, hrx, hkn, hrs⟩ | ⟨hres, hvalid, hkr, hwhere⟩
  · rw [hidx] at hchecksum huntouched hrs
    have hkn : k = junk.length + 1 + n.toNat + 2 := by
      rw [hkr, hrs]
      simp only [List.length_append, List.length_cons, List.length_nil, bufBytes_length]
      omega
    rcases hres with ⟨hres, hvalid, hrx⟩ | ⟨hres, hvalid, hrx⟩
    · exact .inl ⟨hres, hvalid, hchecksum, hrx, hlt, hkn, huntouched, hrs⟩
    · exact .inr (.inl ⟨hres, hvalid, hchecksum, hrx, hlt, hkn, huntouched, hrs⟩)
  · rw [hidx] at hchecksum huntouched
    exact .inr (.inr (.inl ⟨hres, hvalid, fun a => huntouched a (Nat.zero_le a), hchecksum, hrx, hkn, hrs⟩))
  · refine .inr (.inr (.inr ⟨hres, hvalid, by omega, hbound, hkr, t.idx.toNat, h.len ▸ h.frame.idxInPayload, hchecksum,
      huntouched, ?_⟩))
    rcases hwhere with ⟨hidx, hrs, hrx⟩ | ⟨hrs, hrx⟩ | ⟨hidx, hhi⟩
    · exact .inl ⟨congrArg BitVec.toNat hidx, hrs, hrx⟩
    · exact .inr (.inl ⟨hrs, hrx⟩)
    · exact .inr (.inr ⟨congrArg BitVec.toNat hidx, hhi⟩)

end Sys2Proof.Machine
end

section
/-! SUPPORT. The card's answers of R126 (42_block_framer.md): what a receive still asks of them in each phase. -/

namespace Sys2Proof.Machine

/-- The bytes a card answers with from each phase of a receive of the payload `p` on: R126's table, from there. -/
def ReceiveRest (p rs : List Byte) (t : State) : Prop :=
  match t.phase with
  | .idle =>
    rs = [] ∧ t.result = .ok ∧ t.valid = true ∧ t.bufBytes t.len.toNat = p ∧ t.c16 = crc16 p ∧ t.rxcrc = crc16 p
  | .rxStart =>
    t.idx = 0#10 ∧ t.c16 = 0x0000#16 ∧ ∃ junk : List Byte, (∀ b ∈ junk, b ≠ 0xFE#8) ∧
      t.cnt + junk.length < t.limits.nStart ∧ rs = junk ++ 0xFE#8 :: (p ++ [crcHi (crc16 p), crcLo (crc16 p)])
  | .rxData =>
    t.idx.toNat < t.len.toNat ∧ t.c16 = crc16 (t.bufBytes t.idx.toNat) ∧
      ∃ q, t.bufBytes t.idx.toNat ++ q = p ∧ rs = q ++ [crcHi (crc16 p), crcLo (crc16 p)]
  | .rxCrcHi => t.bufBytes t.len.toNat = p ∧ t.c16 = crc16 p ∧ rs = [crcHi (crc16 p), crcLo (crc16 p)]
  | .rxCrcLo =>
    t.bufBytes t.len.toNat = p ∧ t.c16 = crc16 p ∧ crcHi t.rxcrc = crcHi (crc16 p) ∧ rs = [crcLo (crc16 p)]
  | .txStart | .txData | .txCrcHi | .txCrcLo | .txToken | .txBusy => False

/-- The answers `rs` take a receive of the payload `p` to its end. -/
structure ReceiveScript (p rs : List Byte) (t : State) : Prop where
  length : p.length = t.len.toNat
  lenInRange : 1 ≤ t.len.toNat ∧ t.len.toNat ≤ 512
  rest : ReceiveRest p rs t

/-- Only an ended receive asks for no more answers. -/
theorem ReceiveRest.idle_of_nil {p : List Byte} {t : State} (h : ReceiveRest p [] t) : t.phase = .idle := by
  cases hs : t.phase <;> simp [ReceiveRest, hs] at h ⊢

theorem receiveRest_phaseStep {p rs : List Byte} {r : Byte} {t : State} (hlength : p.length = t.len.toNat)
    (hlen : 1 ≤ t.len.toNat ∧ t.len.toNat ≤ 512) (h : ReceiveRest p (r :: rs) t) : ReceiveRest p rs (phaseStep r t) := by
  cases hs : t.phase <;> simp only [phaseStep, hs] <;> simp only [ReceiveRest, hs] at h
  case idle => cases h.1
  case rxStart =>
    obtain ⟨hidx, hc16, junk, hjunk, hlt, hrs⟩ := h
    cases junk with
    | nil =>
      obtain ⟨rfl, rfl⟩ := List.cons.inj hrs
      refine ⟨?_, ?_, p, ?_, rfl⟩
      · show t.idx.toNat < t.len.toNat
        rw [hidx]
        exact hlen.1
      · show t.c16 = crc16 (t.bufBytes t.idx.toNat)
        rw [hidx, hc16]
        rfl
      · show t.bufBytes t.idx.toNat ++ p = p
        rw [hidx]
        rfl
    | cons b junk =>
      obtain ⟨rfl, rfl⟩ := List.cons.inj hrs
      obtain ⟨hr, hjunk⟩ := List.forall_mem_cons.1 hjunk
      rw [List.length_cons] at hlt
      rw [rxStart_of_other hr (by omega)]
      simp only [ReceiveRest, hs]
      exact ⟨hidx, hc16, junk, hjunk, by omega, rfl⟩
  case rxData =>
    obtain ⟨hidx, hc16, q, hp, hrs⟩ := h
    have hi : t.idx.toNat < 512 := by omega
    have hq : t.idx.toNat + q.length = t.len.toNat := by
      rw [← hlength, ← hp, List.length_append, bufBytes_length]
    cases q with
    | nil =>
      rw [List.length_nil] at hq
      omega
    | cons b q =>
      obtain ⟨rfl, rfl⟩ := List.cons.inj hrs
      rw [List.length_cons] at hq
      have hsum : crc16Byte t.c16 r = crc16 (t.bufBytes t.idx.toNat ++ [r]) := by rw [crc16_snoc, hc16]
      have hbytes := bufBytes_write_idx r hi
      by_cases hlast : t.idx.toNat + 1 = t.len.toNat
      · have hnil : q = [] := List.length_eq_zero_iff.1 (by omega)
        subst hnil
        rw [hp] at hsum hbytes
        rw [toNat_idx_succ hi, hlast] at hbytes
        rw [rxData_of_last r hi hlast]
        exact ⟨hbytes, hsum, rfl⟩
      · rw [rxData_of_other r hi hlast]
        refine ⟨?_, hsum.trans (congrArg crc16 hbytes.symm), q, ?_, rfl⟩
        · show (t.idx + 1#10).toNat < t.len.toNat
          rw [toNat_idx_succ hi]
          omega
        · exact (congrArg (· ++ q) hbytes).trans (by simpa using hp)
  case rxCrcHi =>
    obtain ⟨hbytes, hc16, hrs⟩ := h
    obtain ⟨rfl, rfl⟩ := List.cons.inj hrs
    exact ⟨hbytes, hc16, crcHi_append _ _, rfl⟩
  case rxCrcLo =>
    obtain ⟨hbytes, hc16, hhi, hrs⟩ := h
    obtain ⟨rfl, rfl⟩ := List.cons.inj hrs
    have hrx : crcHi t.rxcrc ++ crcLo (crc16 p) = crc16 p := by rw [hhi, crcHi_append_crcLo]
    rw [rxCrcLo_of_eq (hc16.trans hrx.symm)]
    exact ⟨rfl, rfl, rfl, hbytes, hc16, hrx⟩

theorem receiveScript_followed (p : List Byte) : FollowsScript (ReceiveScript p) where
  xfer _ h := { h with }
  busy {r rs t} h := by
    have hrest := h.rest
    refine ⟨fun hp => ?_, fun hm => ?_⟩
    · simp [ReceiveRest, hp] at hrest
    · cases hs : t.phase <;> simp only [ReceiveRest, hs] at hrest <;> simp only [hs, Phase.movesPayload] at hm
      case rxData => exact Nat.lt_of_lt_of_le hrest.1 h.lenInRange.2
      all_goals cases hm
  ok {r rs t} h :=
    { length := h.length.trans (congrArg BitVec.toNat (phaseStep_len r t).symm)
      lenInRange := (phaseStep_len r t).symm ▸ h.lenInRange
      rest := receiveRest_phaseStep h.length h.lenInRange h.rest }

/-- Settles O50: R126's answers take the receive to OK, and the exchanges of that run leave the rest of BUF alone. -/
theorem receiveDeliversThePayload : Obligations.ReceiveDeliversThePayload := by
  intro s u n junk p more hidle hsel hin h1 h512 hp hjunk hlt hcard hx
  rw [exec_receiveBlock hidle h1 h512] at hx
  cases hx
  have hscript : ReceiveScript p (junk ++ 0xFE#8 :: (p ++ [crcHi (crc16 p), crcLo (crc16 p)])) (receiveIssued n s) :=
    { length := hp
      lenInRange := ⟨h1, h512⟩
      rest := ⟨rfl, rfl, junk, hjunk, (Nat.zero_add _).trans_lt hlt, rfl⟩ }
  obtain ⟨t, hrun, ht, hmore, hcount⟩ := run_of_script (receiveScript_followed p) hscript hsel hin hcard
  have hlength : (junk ++ 0xFE#8 :: (p ++ [crcHi (crc16 p), crcLo (crc16 p)])).length = junk.length + 1 + n.toNat + 2 := by
    simp only [List.length_append, List.length_cons, List.length_nil, hp]
    omega
  rw [hlength] at hrun hcount
  obtain ⟨es, htrace, hes, hframe⟩ :=
    run_keeps (s := receiveIssued n s) (receiveFrame_kept s) hin (receiveFrame_issued s h1 h512) hrun
  rw [List.nil_append] at hframe
  have hes : es.length = junk.length + 1 + n.toNat + 2 := Nat.add_left_cancel (hes.symm.trans hcount)
  have htidle := ht.rest.idle_of_nil
  have hlen : t.len.toNat = n.toNat := ht.length.symm.trans hp
  have hrest := ht.rest
  simp only [ReceiveRest, htidle, hlen] at hrest
  obtain ⟨-, hres, hvalid, hbytes, hc16, hrx⟩ := hrest
  have hsent := hframe.sent
  rw [hes] at hsent
  refine ⟨t, hrun, (busy_eq_false_iff t).2 htidle, hres, hvalid, hbytes, hc16, hrx, hmore, fun a ha => ?_, ?_⟩
  · exact hframe.untouched a (hframe.idxInPayload.trans (hlen.trans_le ha))
  · rw [htrace]
    exact (congrArg transmitted List.drop_left).trans hsent

end Sys2Proof.Machine
end

section
/-! SUPPORT. SEND_BLOCK whole (42_block_framer.md R127, R141 to R149): what it leaves alone and transmits, the bytes it has
received in each phase and at its end, the answers that take it to OK, and the round trip (R163). -/

namespace Sys2Proof.Machine

/-! ## The bytes of a block on the wire -/

/-- A block on the wire: start token, payload, CRC-16 (R125). -/
def sendWire (p : List Byte) : List Byte := 0xFE#8 :: (p ++ [crcHi (crc16 p), crcLo (crc16 p)])

/-- The byte of exchange `i` of a send: that of the block, then fill bytes (R48, R127). -/
def wireByte (p : List Byte) (i : Nat) : Byte := (sendWire p).getD i 0xFF#8

theorem wireByte_payload {p : List Byte} {i : Nat} (h : i < p.length) : wireByte p (i + 1) = p[i] := by
  simp [wireByte, sendWire, List.getElem?_append_left h, h]

theorem wireByte_crcHi {p : List Byte} {i : Nat} (h : i = p.length + 1) : wireByte p i = crcHi (crc16 p) := by
  simp [wireByte, sendWire, h]

theorem wireByte_crcLo {p : List Byte} {i : Nat} (h : i = p.length + 2) : wireByte p i = crcLo (crc16 p) := by
  simp [wireByte, sendWire, h]

theorem wireByte_of_le {p : List Byte} {i : Nat} (h : p.length + 3 ≤ i) : wireByte p i = 0xFF#8 := by
  refine List.getD_eq_default _ _ ?_
  simp only [sendWire, List.length_append, List.length_cons, List.length_nil]
  omega

/-- The bytes of the first `k` exchanges, as a beginning of the block and fill bytes. -/
theorem map_wireByte_range {p : List Byte} {k m : Nat} (h : k ≤ p.length + 3 + m) :
    (List.range k).map (wireByte p) =
      (0xFE#8 :: (p ++ (crcHi (crc16 p) :: crcLo (crc16 p) :: List.replicate m 0xFF#8))).take k := by
  have hwire : 0xFE#8 :: (p ++ (crcHi (crc16 p) :: crcLo (crc16 p) :: List.replicate m 0xFF#8)) =
      sendWire p ++ List.replicate m 0xFF#8 := by simp [sendWire]
  have hlength : (sendWire p).length = p.length + 3 := by simp [sendWire]
  have hk : k ≤ (sendWire p ++ List.replicate m 0xFF#8).length := by
    rw [List.length_append, hlength, List.length_replicate]
    exact h
  rw [hwire]
  refine List.ext_getElem (by simp [List.length_take_of_le hk]) fun i hi _ => ?_
  have hik : i < k := by simpa using hi
  rw [List.getElem_map, List.getElem_range, List.getElem_take, List.getElem_append]
  split
  case isTrue hlt => exact List.getD_eq_getElem _ _ hlt
  case isFalse hge => rw [List.getElem_replicate, wireByte_of_le (by omega)]

/-! ## What a send leaves alone, and what it transmits -/

/-- How many exchanges a send has made in each phase, and at least in the last two; one that has ended OK has sent the
block. -/
def SendPlace (k : Nat) (t : State) : Prop :=
  match t.phase with
  | .idle => t.result = .ok → t.len.toNat + 3 ≤ k
  | .txStart => k = 0 ∧ t.idx = 0#10
  | .txData => k = t.idx.toNat + 1 ∧ t.idx.toNat < t.len.toNat
  | .txCrcHi => k = t.len.toNat + 1
  | .txCrcLo => k = t.len.toNat + 2
  | .txToken => t.len.toNat + 3 ≤ k
  | .txBusy => t.len.toNat + 3 ≤ k
  | .rxStart | .rxData | .rxCrcHi | .rxCrcLo => False

/-- A send of `n` bytes issued in state `s`, after the events `es`: BUF and VALID are as they were, C16 is the payload's, and
the bytes transmitted are those of the block, in order. -/
structure SendFrame (s : State) (n : BitVec 10) (es : List Event) (t : State) : Prop where
  buf : t.buf = s.buf
  bufDraw : t.bufDraw = s.bufDraw
  valid : t.valid = s.valid
  c16 : t.c16 = crc16 (s.bufBytes n.toNat)
  len : t.len = n
  lenInRange : 1 ≤ t.len.toNat ∧ t.len.toNat ≤ 512
  place : SendPlace es.length t
  sent : transmitted es = (List.range es.length).map (wireByte (s.bufBytes n.toNat))

theorem sendPlace_phaseStep {t : State} {k : Nat} (r : Byte) (hp : t.phase ≠ .idle)
    (hlen : 1 ≤ t.len.toNat ∧ t.len.toNat ≤ 512) (h : SendPlace k t) : SendPlace (k + 1) (phaseStep r t) := by
  cases hs : t.phase <;> simp only [phaseStep, hs] <;> simp only [SendPlace, hs] at h
  case idle => exact absurd hs hp
  case txStart =>
    obtain ⟨rfl, hidx⟩ := h
    show 0 + 1 = t.idx.toNat + 1 ∧ t.idx.toNat < t.len.toNat
    rw [hidx]
    exact ⟨rfl, hlen.1⟩
  case txData =>
    obtain ⟨rfl, hidx⟩ := h
    have hi : t.idx.toNat < 512 := Nat.lt_of_lt_of_le hidx hlen.2
    have hsucc := toNat_idx_succ hi
    by_cases hlast : t.idx.toNat + 1 = t.len.toNat
    · rw [txData_of_last r hi hlast]
      exact congrArg (· + 1) hlast
    · rw [txData_of_other r hi hlast]
      exact ⟨congrArg (· + 1) hsucc.symm, hsucc.trans_lt (Nat.lt_of_le_of_ne hidx hlast)⟩
  case txCrcHi => exact congrArg (· + 1) h
  case txCrcLo => exact (congrArg (· + 1) h).ge
  case txToken =>
    have hk : t.len.toNat + 3 ≤ k + 1 := Nat.le_succ_of_le h
    by_cases hr : r = 0xFF#8
    · subst hr
      by_cases hc : t.cnt + 1 = t.limits.nToken
      · rw [txToken_of_last hc]
        exact fun _ => hk
      · rw [txToken_of_other hc]
        simpa only [SendPlace, hs] using hk
    · rw [txToken_of_token t hr]
      exact hk
  case txBusy =>
    have hk : t.len.toNat + 3 ≤ k + 1 := Nat.le_succ_of_le h
    by_cases hr : r = 0xFF#8
    · subst hr
      exact fun _ => hk
    by_cases hc : t.cnt + 1 = t.limits.nBusy
    · rw [txBusy_of_last hr hc]
      exact fun _ => hk
    · rw [txBusy_of_other hr hc]
      simpa only [SendPlace, hs] using hk

/-- A send is in no phase that writes BUF, C16 or VALID. -/
theorem SendPlace.not_receiving {t : State} {k : Nat} (h : SendPlace k t) : t.phase ≠ .rxData ∧ t.phase ≠ .rxCrcLo := by
  constructor
  all_goals
    intro hs
    simp only [SendPlace, hs] at h

/-- The block transmits the byte the wire's next exchange has. -/
theorem SendFrame.txByte_eq {s t : State} {n : BitVec 10} {es : List Event} (h : SendFrame s n es t)
    (hp : t.phase ≠ .idle) : txByte t = wireByte (s.bufBytes n.toNat) es.length := by
  have hplace := h.place
  have hlength := bufBytes_length s n.toNat
  have hcrc := h.c16
  cases hs : t.phase <;> simp only [txByte, hs] <;> simp only [SendPlace, hs, h.len] at hplace
  case idle => exact absurd hs hp
  case txStart =>
    rw [hplace.1]
    rfl
  case txData =>
    obtain ⟨hk, hidx⟩ := hplace
    rw [hk, wireByte_payload (hlength.symm ▸ hidx), bufByte_def, h.buf, h.bufDraw]
    simp [State.bufBytes, bufByte_def]
  case txCrcHi => rw [wireByte_crcHi (by omega), hcrc]
  case txCrcLo => rw [wireByte_crcLo (by omega), hcrc]
  case txToken | txBusy => rw [wireByte_of_le (by omega), fillByte]

theorem SendFrame.sent_snoc {s t : State} {n : BitVec 10} {es : List Event} (h : SendFrame s n es t)
    (hp : t.phase ≠ .idle) (o : XferResult) :
    transmitted (es ++ [.exchange (txByte t) o]) =
      (List.range (es ++ [Event.exchange (txByte t) o]).length).map (wireByte (s.bufBytes n.toNat)) := by
  rw [transmitted_snoc, h.sent, h.txByte_eq hp, List.length_append, List.length_singleton, List.range_succ, List.map_append]
  rfl

theorem sendFrame_kept (s : State) (n : BitVec 10) : KeptByExchanges (SendFrame s n) where
  xfer _ h := { h with }
  ok {es t} r hp h := by
    obtain ⟨hdata, hlo⟩ := h.place.not_receiving
    obtain ⟨hc16, -⟩ := phaseStep_changes r t
    exact
      { buf := (phaseStep_buf r hdata).trans h.buf
        bufDraw := (phaseStep_bufDraw r t).trans h.bufDraw
        valid := (phaseStep_valid r hlo).trans h.valid
        c16 := (by_contra fun hne => hdata (hc16 hne) : (phaseStep r t).c16 = t.c16).trans h.c16
        len := (phaseStep_len r t).trans h.len
        lenInRange := (phaseStep_len r t).symm ▸ h.lenInRange
        place := by
          rw [List.length_append]
          exact sendPlace_phaseStep r hp h.lenInRange h.place
        sent := h.sent_snoc hp (.ok r) }
  unavail hp h := { h with place := nofun, sent := h.sent_snoc hp .unavail }

/-- The state in which an accepted SEND_BLOCK leaves the block (R141). -/
def sendIssued (n : BitVec 10) (s : State) : State :=
  { s with c16 := crc16 (s.bufBytes n.toNat), drt := 0xFF#8, len := n, idx := 0#10, cnt := 0, phase := .txStart }

theorem sendFrame_issued (s : State) {n : BitVec 10} (h1 : 1 ≤ n.toNat) (h512 : n.toNat ≤ 512) :
    SendFrame s n [] (sendIssued n s) where
  buf := rfl
  bufDraw := rfl
  valid := rfl
  c16 := rfl
  len := rfl
  lenInRange := ⟨h1, h512⟩
  place := ⟨rfl, rfl⟩
  sent := rfl

/-! ## What a send has received, whatever the card answers -/

/-- The bytes received by a send whose `q` polls have found no token. -/
def NoTokenYet (q : Nat) (rs : List Byte) (t : State) : Prop :=
  t.drt = 0xFF#8 ∧ ∃ ignored : List Byte, ignored.length = 3 + t.len.toNat ∧ rs = ignored ++ List.replicate q 0xFF#8

/-- The bytes received by a send that has its token, DRT, and after it the bytes `busy`. -/
def TokenTaken (busy rs : List Byte) (t : State) : Prop :=
  t.drt ≠ 0xFF#8 ∧ (∀ b ∈ busy, b ≠ 0xFF#8) ∧
    ∃ (ignored : List Byte) (q : Nat), ignored.length = 3 + t.len.toNat ∧ q < t.limits.nToken ∧
      rs = ignored ++ (List.replicate q 0xFF#8 ++ t.drt :: busy)

/-- The rows of R149, by the bytes `rs` received in `k` exchanges. -/
def SendOutcome (k : Nat) (rs : List Byte) (t : State) : Prop :=
  (k = rs.length ∧
    ((t.result = tokenResult t.drt ∧
        ∃ busy rs', busy.length < t.limits.nBusy ∧ TokenTaken busy rs' t ∧ rs = rs' ++ [0xFF#8]) ∨
     (t.result = .timeout ∧ NoTokenYet t.limits.nToken rs t) ∨
     (t.result = .timeout ∧ ∃ busy, busy.length = t.limits.nBusy ∧ TokenTaken busy rs t))) ∨
  (k = rs.length + 1 ∧ t.result = .busUnavailable ∧
    ((t.drt = 0xFF#8 ∧ rs.length < 3 + t.len.toNat) ∨
     (∃ q, q < t.limits.nToken ∧ NoTokenYet q rs t) ∨
     ∃ busy, busy.length < t.limits.nBusy ∧ TokenTaken busy rs t))

/-- What a send has received in each phase. -/
def SendProgress (k : Nat) (rs : List Byte) (t : State) : Prop :=
  match t.phase with
  | .idle => SendOutcome k rs t
  | .txStart | .txData | .txCrcHi | .txCrcLo => k = rs.length
  | .txToken => k = rs.length ∧ NoTokenYet t.cnt rs t
  | .txBusy => k = rs.length ∧ ∃ busy, busy.length = t.cnt ∧ TokenTaken busy rs t
  | .rxStart | .rxData | .rxCrcHi | .rxCrcLo => False

theorem sendProgress_phaseStep (r : Byte) {t : State} {k : Nat} {rs : List Byte} (hp : t.phase ≠ .idle) (hinv : t.Inv)
    (hplace : SendPlace k t) (h : SendProgress k rs t) : SendProgress (k + 1) (rs ++ [r]) (phaseStep r t) := by
  have hlength (hk : k = rs.length) : k + 1 = (rs ++ [r]).length := by rw [hk, List.length_append, List.length_singleton]
  cases hs : t.phase <;> simp only [phaseStep, hs] <;> simp only [SendProgress, hs] at h
  case idle => exact absurd hs hp
  case txStart => exact hlength h
  case txData =>
    unfold txData
    dsimp only
    split <;> exact hlength h
  case txCrcHi => exact hlength h
  case txCrcLo =>
    simp only [SendPlace, hs] at hplace
    obtain ⟨-, hdrt⟩ := hinv.checksum_at hs
    refine ⟨hlength h, hdrt, rs ++ [r], ?_, (List.append_nil _).symm⟩
    show (rs ++ [r]).length = 3 + t.len.toNat
    have hk := hlength h
    omega
  case txToken =>
    obtain ⟨hk, hdrt, ignored, hignored, rfl⟩ := h
    obtain ⟨-, hcnt⟩ : t.idx = t.len ∧ t.cnt < t.limits.nToken := hinv.position_at hs
    by_cases hr : r = 0xFF#8
    · subst hr
      have hnone : ignored ++ List.replicate t.cnt 0xFF#8 ++ [0xFF#8] = ignored ++ List.replicate (t.cnt + 1) 0xFF#8 := by
        rw [List.replicate_succ', List.append_assoc]
      by_cases hc : t.cnt + 1 = t.limits.nToken
      · rw [txToken_of_last hc]
        exact .inl ⟨hlength hk, .inr (.inl ⟨rfl, hdrt, ignored, hignored, hc ▸ hnone⟩)⟩
      · rw [txToken_of_other hc]
        simp only [SendProgress, hs]
        exact ⟨hlength hk, hdrt, ignored, hignored, hnone⟩
    · rw [txToken_of_token t hr]
      exact ⟨hlength hk, [], rfl, hr, nofun, ignored, t.cnt, hignored, hcnt, List.append_assoc _ _ _⟩
  case txBusy =>
    obtain ⟨hk, busy, hbusy, htaken⟩ := h
    obtain ⟨-, hcnt⟩ : t.idx = t.len ∧ t.cnt < t.limits.nBusy := hinv.position_at hs
    by_cases hr : r = 0xFF#8
    · subst hr
      exact .inl ⟨hlength hk, .inl ⟨rfl, busy, rs, hbusy.trans_lt hcnt, htaken, rfl⟩⟩
    have hbusy' : (busy ++ [r]).length = t.cnt + 1 := by rw [List.length_append, hbusy, List.length_singleton]
    have htaken' : TokenTaken (busy ++ [r]) (rs ++ [r]) t := by
      obtain ⟨hdrt, hne, ignored, q, hignored, hq, rfl⟩ := htaken
      exact ⟨hdrt, by simpa [or_imp, forall_and, hr] using hne, ignored, q, hignored, hq, by simp⟩
    by_cases hc : t.cnt + 1 = t.limits.nBusy
    · rw [txBusy_of_last hr hc]
      exact .inl ⟨hlength hk, .inr (.inr ⟨rfl, busy ++ [r], hbusy'.trans hc, htaken'⟩)⟩
    · rw [txBusy_of_other hr hc]
      simp only [SendProgress, hs]
      exact ⟨hlength hk, busy ++ [r], hbusy', htaken'⟩

/-- `Unavail` ends the send with what it has received. -/
theorem sendProgress_unavail {t : State} {k : Nat} {rs : List Byte} (hp : t.phase ≠ .idle) (hinv : t.Inv)
    (hplace : SendPlace k t) (h : SendProgress k rs t) : SendProgress (k + 1) rs (finish .busUnavailable t) := by
  refine .inr ?_
  cases hs : t.phase <;> simp only [SendProgress, hs] at h <;> simp only [SendPlace, hs] at hplace
  case idle => exact absurd hs hp
  case txToken =>
    obtain ⟨hk, hnone⟩ := h
    obtain ⟨-, hcnt⟩ : t.idx = t.len ∧ t.cnt < t.limits.nToken := hinv.position_at hs
    exact ⟨congrArg (· + 1) hk, rfl, .inr (.inl ⟨t.cnt, hcnt, hnone⟩)⟩
  case txBusy =>
    obtain ⟨hk, busy, hbusy, htaken⟩ := h
    obtain ⟨-, hcnt⟩ : t.idx = t.len ∧ t.cnt < t.limits.nBusy := hinv.position_at hs
    exact ⟨congrArg (· + 1) hk, rfl, .inr (.inr ⟨busy, hbusy.trans_lt hcnt, htaken⟩)⟩
  all_goals
    obtain ⟨-, hdrt⟩ := hinv.checksum_at hs
    refine ⟨congrArg (· + 1) h, rfl, .inl ⟨hdrt, ?_⟩⟩
    show rs.length < 3 + t.len.toNat
    omega

/-- A send of `n` bytes issued in state `s`, after the events `es`. -/
structure SendHistory (s : State) (n : BitVec 10) (es : List Event) (t : State) : Prop where
  inv : t.Inv
  frame : SendFrame s n es t
  limits : t.limits = s.limits
  progress : SendProgress es.length (Spec.received es) t

theorem sendHistory_kept (s : State) (n : BitVec 10) : KeptByExchanges (SendHistory s n) where
  xfer b h := { h with inv := afterXfer_inv b h.inv, frame := (sendFrame_kept s n).xfer b h.frame }
  ok r hp h :=
    { inv := phaseStep_inv r h.inv
      frame := (sendFrame_kept s n).ok r hp h.frame
      limits := (phaseStep_limits r _).trans h.limits
      progress := by
        rw [List.length_append, received_snoc_ok]
        exact sendProgress_phaseStep r hp h.inv h.frame.place h.progress }
  unavail hp h :=
    { h with
      inv := h.inv.phaseFree.inv_finish .busUnavailable
      frame := (sendFrame_kept s n).unavail hp h.frame
      progress := by
        rw [List.length_append, received_snoc_unavail]
        exact sendProgress_unavail hp h.inv h.frame.place h.progress }

theorem sendHistory_issued {s : State} {n : BitVec 10} (hinv : s.Inv) (h1 : 1 ≤ n.toNat) (h512 : n.toNat ≤ 512) :
    SendHistory s n [] (sendIssued n s) where
  inv := sendBlock_issue_inv hinv h1 h512
  frame := sendFrame_issued s h1 h512
  limits := rfl
  progress := rfl

/-- Settles O49: the send ends (R160), and at its end the history of its exchanges is a row of R149. -/
theorem sendEndsInOneOfItsOutcomes : Obligations.SendEndsInOneOfItsOutcomes := by
  intro s n hinv hidle hsel hin h1 h512
  have hissued := sendHistory_issued hinv h1 h512
  obtain ⟨k, t, hbound, hrun, htidle, hcount⟩ := run_to_idle hissued.inv hsel hin
  obtain ⟨es, htrace, hlength, h⟩ := run_keeps (s := sendIssued n s) (sendHistory_kept s n) hin hissued hrun
  rw [List.nil_append] at h
  have hk : es.length = k := Nat.add_left_cancel (hlength.symm.trans hcount)
  have hbound : k ≤ 3 + n.toNat + s.limits.nToken + s.limits.nBusy := hbound
  have hsent := h.frame.sent
  rw [map_wireByte_range (m := s.limits.nToken + s.limits.nBusy) (by rw [bufBytes_length]; omega), hk] at hsent
  have hprogress := h.progress
  simp only [SendProgress, (busy_eq_false_iff t).1 htidle, SendOutcome, NoTokenYet, TokenTaken, h.limits, h.frame.len, hk]
    at hprogress
  refine ⟨sendIssued n s, t, k, es, exec_sendBlock hidle h1 h512, hrun, htidle, htrace, hk, hsent, h.frame.buf,
    h.frame.bufDraw, h.frame.valid, h.frame.c16, ?_⟩
  rcases hprogress with ⟨hkr, ⟨hres, busy, rs, hbusy, ⟨hdrt, hne, ignored, q, hignored, hq, rfl⟩, hrs⟩ |
      ⟨hres, hdrt, ignored, hignored, hrs⟩ | ⟨hres, busy, hbusy, hdrt, hne, ignored, q, hignored, hq, hrs⟩⟩ |
    ⟨hkr, hres, hwhere⟩
  · have hrs : Spec.received es = ignored ++ (List.replicate q 0xFF#8 ++ t.drt :: (busy ++ [0xFF#8])) := by simpa using hrs
    refine .inl ⟨ignored, busy, q, hignored, hq, hbusy, hne, hdrt, hrs, ?_, hres.trans (tokenResult_eq t.drt)⟩
    rw [hkr, hrs]
    simp only [List.length_append, List.length_cons, List.length_nil, List.length_replicate, hignored]
    omega
  · refine .inr (.inl ⟨ignored, hignored, hres, hdrt, hrs, ?_⟩)
    rw [hkr, hrs]
    rw [List.length_append, List.length_replicate, hignored]
  · refine .inr (.inr (.inl ⟨ignored, busy, q, hignored, hq, hbusy, hne, hres, hdrt, hrs, ?_⟩))
    rw [hkr, hrs]
    simp only [List.length_append, List.length_cons, List.length_replicate, hignored, hbusy]
    omega
  · refine .inr (.inr (.inr ⟨hres, by omega, hbound, hkr, ?_⟩))
    rcases hwhere with ⟨hdrt, hshort⟩ | ⟨q, hq, hdrt, ignored, hignored, hrs⟩ |
      ⟨busy, hbusy, hdrt, hne, ignored, q, hignored, hq, hrs⟩
    · exact .inl ⟨_, hshort, hdrt, rfl⟩
    · exact .inr (.inl ⟨ignored, q, hignored, hq, hdrt, hrs⟩)
    · exact .inr (.inr ⟨ignored, busy, q, hignored, hq, hbusy, hne, hdrt, hrs⟩)

/-! ## The answers of R127 -/

/-- The answers from the token poll on: `q` bytes without a token, the token `d`, bytes of a busy line, and an idle one; `c`
polls are spent already. -/
def TokenRest (d : Byte) (c : Nat) (limits : Limits) (rs : List Byte) : Prop :=
  ∃ (q : Nat) (busy : List Byte), c + q < limits.nToken ∧ busy.length < limits.nBusy ∧ (∀ b ∈ busy, b ≠ 0xFF#8) ∧
    rs = List.replicate q 0xFF#8 ++ d :: (busy ++ [0xFF#8])

/-- The bytes a card answers with from each phase of a send on, to end it with the token `d`: R127's table, from there. -/
def SendRest (d : Byte) (rs : List Byte) (t : State) : Prop :=
  match t.phase with
  | .idle => rs = [] ∧ t.result = tokenResult d ∧ t.drt = d
  | .txStart => t.idx = 0#10 ∧ TokenRest d 0 t.limits (rs.drop (t.len.toNat + 3))
  | .txData => t.idx.toNat < t.len.toNat ∧ TokenRest d 0 t.limits (rs.drop (t.len.toNat - t.idx.toNat + 2))
  | .txCrcHi => TokenRest d 0 t.limits (rs.drop 2)
  | .txCrcLo => TokenRest d 0 t.limits (rs.drop 1)
  | .txToken => TokenRest d t.cnt t.limits rs
  | .txBusy =>
    t.drt = d ∧ ∃ busy : List Byte, t.cnt + busy.length < t.limits.nBusy ∧ (∀ b ∈ busy, b ≠ 0xFF#8) ∧ rs = busy ++ [0xFF#8]
  | .rxStart | .rxData | .rxCrcHi | .rxCrcLo => False

/-- The answers `rs` take a send to its end, with the token `d`. -/
structure SendScript (d : Byte) (rs : List Byte) (t : State) : Prop where
  token : d ≠ 0xFF#8
  lenInRange : 1 ≤ t.len.toNat ∧ t.len.toNat ≤ 512
  rest : SendRest d rs t

/-- Only an ended send asks for no more answers. -/
theorem SendRest.idle_of_nil {d : Byte} {t : State} (h : SendRest d [] t) : t.phase = .idle := by
  cases hs : t.phase <;> simp [SendRest, TokenRest, hs] at h ⊢

theorem sendRest_phaseStep {d r : Byte} {rs : List Byte} {t : State} (hd : d ≠ 0xFF#8)
    (hlen : 1 ≤ t.len.toNat ∧ t.len.toNat ≤ 512) (h : SendRest d (r :: rs) t) : SendRest d rs (phaseStep r t) := by
  cases hs : t.phase <;> simp only [phaseStep, hs] <;> simp only [SendRest, hs] at h
  case idle => cases h.1
  case txStart =>
    obtain ⟨hidx, hrest⟩ := h
    show t.idx.toNat < t.len.toNat ∧ TokenRest d 0 t.limits (rs.drop (t.len.toNat - t.idx.toNat + 2))
    rw [hidx]
    exact ⟨hlen.1, hrest⟩
  case txData =>
    obtain ⟨hidx, hrest⟩ := h
    have hi : t.idx.toNat < 512 := Nat.lt_of_lt_of_le hidx hlen.2
    obtain ⟨m, hm⟩ := Nat.exists_eq_add_of_lt hidx
    have hleft : t.len.toNat - t.idx.toNat + 2 = m + 2 + 1 := by omega
    rw [hleft, List.drop_succ_cons] at hrest
    by_cases hlast : t.idx.toNat + 1 = t.len.toNat
    · have hm0 : m = 0 := by omega
      subst hm0
      rw [txData_of_last r hi hlast]
      exact hrest
    · rw [txData_of_other r hi hlast]
      show (t.idx + 1#10).toNat < t.len.toNat ∧
        TokenRest d 0 t.limits (rs.drop (t.len.toNat - (t.idx + 1#10).toNat + 2))
      rw [toNat_idx_succ hi, show t.len.toNat - (t.idx.toNat + 1) + 2 = m + 2 by omega]
      exact ⟨by omega, hrest⟩
  case txCrcHi => exact h
  case txCrcLo => exact h
  case txToken =>
    obtain ⟨q, busy, hq, hbusy, hne, hrs⟩ := h
    cases q with
    | zero =>
      obtain ⟨rfl, rfl⟩ := List.cons.inj hrs
      rw [txToken_of_token t hd]
      exact ⟨rfl, busy, (Nat.zero_add _).trans_lt hbusy, hne, rfl⟩
    | succ q =>
      obtain ⟨rfl, rfl⟩ := List.cons.inj hrs
      rw [txToken_of_other (by omega)]
      simp only [SendRest, hs]
      exact ⟨q, busy, by omega, hbusy, hne, rfl⟩
  case txBusy =>
    obtain ⟨hdrt, busy, hbusy, hne, hrs⟩ := h
    cases busy with
    | nil =>
      obtain ⟨rfl, rfl⟩ := List.cons.inj hrs
      exact ⟨rfl, congrArg tokenResult hdrt, hdrt⟩
    | cons b busy =>
      obtain ⟨rfl, rfl⟩ := List.cons.inj hrs
      obtain ⟨hr, hne⟩ := List.forall_mem_cons.1 hne
      rw [List.length_cons] at hbusy
      rw [txBusy_of_other hr (by omega)]
      simp only [SendRest, hs]
      exact ⟨hdrt, busy, by omega, hne, rfl⟩

theorem sendScript_followed (d : Byte) : FollowsScript (SendScript d) where
  xfer _ h := { h with }
  busy {r rs t} h := by
    have hrest := h.rest
    refine ⟨fun hp => ?_, fun hm => ?_⟩
    · simp [SendRest, hp] at hrest
    · cases hs : t.phase <;> simp only [SendRest, hs] at hrest <;> simp only [hs, Phase.movesPayload] at hm
      case txData => exact Nat.lt_of_lt_of_le hrest.1 h.lenInRange.2
      all_goals cases hm
  ok {r rs t} h :=
    { token := h.token
      lenInRange := (phaseStep_len r t).symm ▸ h.lenInRange
      rest := sendRest_phaseStep h.token h.lenInRange h.rest }

/-- Settles O51: R127's answers take the send to OK, and the exchanges of that run transmit the block. -/
theorem sendTransmitsTheBlock : Obligations.SendTransmitsTheBlock := by
  intro s u n ignored busy q d more hidle hsel hin h1 h512 hignored hq hd hlow hne hbusy hcard hx
  rw [exec_sendBlock hidle h1 h512] at hx
  cases hx
  have hscript : SendScript d (ignored ++ (List.replicate q 0xFF#8 ++ d :: (busy ++ [0xFF#8]))) (sendIssued n s) :=
    { token := hd
      lenInRange := ⟨h1, h512⟩
      rest := ⟨rfl, q, busy, (Nat.zero_add _).trans_lt hq, hbusy, hne,
        List.drop_left' (hignored.trans (Nat.add_comm 3 n.toNat))⟩ }
  obtain ⟨t, hrun, ht, hmore, hcount⟩ := run_of_script (sendScript_followed d) hscript hsel hin hcard
  have hlength : (ignored ++ (List.replicate q 0xFF#8 ++ d :: (busy ++ [0xFF#8]))).length =
      3 + n.toNat + (q + 1) + (busy.length + 1) := by
    simp only [List.length_append, List.length_cons, List.length_nil, List.length_replicate, hignored]
    omega
  rw [hlength] at hrun hcount
  obtain ⟨es, htrace, hes, hframe⟩ :=
    run_keeps (s := sendIssued n s) (sendFrame_kept s n) hin (sendFrame_issued s h1 h512) hrun
  rw [List.nil_append] at hframe
  have hes : es.length = 3 + n.toNat + (q + 1) + (busy.length + 1) := Nat.add_left_cancel (hes.symm.trans hcount)
  have htidle := ht.rest.idle_of_nil
  have hrest := ht.rest
  simp only [SendRest, htidle] at hrest
  obtain ⟨-, hres, hdrt⟩ := hrest
  have hsent := hframe.sent
  rw [map_wireByte_range (m := q + 1 + (busy.length + 1)) (by rw [bufBytes_length]; omega),
    List.take_of_length_le (by simp only [List.length_append, List.length_cons, List.length_replicate, bufBytes_length]; omega)]
    at hsent
  refine ⟨t, hrun, (busy_eq_false_iff t).2 htidle, ?_, hdrt, hframe.c16, hmore, hframe.buf, hframe.valid, ?_⟩
  · rw [hres, tokenResult_eq, if_pos hlow]
  · rw [htrace]
    exact (congrArg transmitted List.drop_left).trans hsent

/-! ## The round trip -/

/-- Settles O52: a send that ends OK has transmitted the block, and a receive answered with it is that of R126. -/
theorem sentBlockReceivedBackIsThePayload : Obligations.SentBlockReceivedBackIsThePayload := by
  intro s u t v w n k junk more hidle hin h1 h512 hsend hrun htidle hres _ hvidle hvsel hvin hjunk hlt hcard hreceive
  rw [exec_sendBlock hidle h1 h512] at hsend
  cases hsend
  obtain ⟨es, htrace, -, hframe⟩ :=
    run_keeps (s := sendIssued n s) (sendFrame_kept s n) hin (sendFrame_issued s h1 h512) hrun
  rw [List.nil_append] at hframe
  have hplace := hframe.place
  simp only [SendPlace, (busy_eq_false_iff t).1 htidle, hframe.len] at hplace
  have hblock : (transmitted (t.trace.drop s.trace.length)).take (n.toNat + 3) = sendWire (s.bufBytes n.toNat) := by
    have hsent : transmitted (t.trace.drop s.trace.length) = (List.range es.length).map (wireByte (s.bufBytes n.toNat)) := by
      rw [htrace]
      exact (congrArg transmitted List.drop_left).trans hframe.sent
    have hlength := bufBytes_length s n.toNat
    rw [hsent, ← List.map_take, List.take_range, min_eq_left (hplace hres), map_wireByte_range (m := 0) (by omega)]
    exact List.take_of_length_le (by simp [hlength])
  rw [hblock] at hcard
  obtain ⟨x, hxrun, hxidle, hxres, hxvalid, hxbytes, -⟩ := receiveDeliversThePayload v w n junk (s.bufBytes n.toNat) more
    hvidle hvsel hvin h1 h512 (bufBytes_length s n.toNat) hjunk hlt hcard hreceive
  have hsteps : junk.length + n.toNat + 3 = junk.length + 1 + n.toNat + 2 := by omega
  exact ⟨x, hsteps ▸ hxrun, hxidle, hxres, hxvalid, hxbytes⟩

end Sys2Proof.Machine
end

section
/-! SUPPORT. Errors as completions (60_exceptions.md R173): no command stops, and under the invariant no step faults; and the
race between a command word and the block's last step (R176). -/

namespace Sys2Proof.Machine

/-! ## No command stops -/

theorem accept_answers (body : State → State) (s : State) : ∃ t, accept body s = .next t := by
  cases hb : s.busy with
  | false => exact ⟨_, accept_of_idle body hb⟩
  | true => exact ⟨_, accept_of_busy body hb⟩

/-- Settles O40: every command is its body handed to `accept`. -/
theorem everyCommandAnswersANextState : Obligations.EveryCommandAnswersANextState := by
  intro i s
  cases i <;>
    simp only [exec, execCrc7Init, execCrc7Update, execCrc7Buf, execCrc16Init, execCrc16Update, execCrc16Buf,
      execBufWrite, execBufRead, execSendBlock, execReceiveBlock, execClrStatus] <;>
    exact accept_answers _ s

theorem commandPort_answers (w : Word) (s : State) : ∃ t, commandPort w s = .next t := by
  cases hd : decode w with
  | ok i => exact commandPort_of_decode s hd ▸ everyCommandAnswersANextState i s
  | error e =>
    simp only [commandPort, hd]
    exact accept_answers _ s

/-! ## No step faults under the invariant -/

/-- The only event that can fault is the block's own step. -/
theorem onInput_fault {e : Input} {s : State} {f : Fault} (h : onInput e s = .fault f) : blockStep s = .fault f := by
  cases e
  case blockStep => exact h
  case hostWrite n w =>
    obtain ⟨t, ht⟩ := commandPort_answers w s
    simp only [onInput, hostWrite, ht] at h
    split at h <;> cases h
  case hostExchange | transportReopen | chipSelect =>
    simp only [onInput] at h
    split at h <;> cases h
  all_goals cases h

/-- A step faults only in a payload phase whose IDX is no index of BUF. -/
theorem step_fault {s : State} {f : Fault} (h : step s = .fault f) :
    s.phase.movesPayload = true ∧ bufSize ≤ s.idx.toNat := by
  cases hin : s.inputs with
  | nil => exact blockStep_fault (step_of_nil hin ▸ h)
  | cons e rest =>
    have hblock : blockStep { s with inputs := rest } = .fault f := onInput_fault (step_of_cons hin ▸ h)
    exact blockStep_fault (s := { s with inputs := rest }) hblock

/-- Settles O45: the invariant has IDX inside BUF in the payload phases. -/
theorem noFaultUnderTheInvariant : Obligations.NoFaultUnderTheInvariant := by
  intro s f hinv hfault
  obtain ⟨hpayload, houtside⟩ := step_fault hfault
  exact Nat.not_lt.2 houtside (hinv.idx_lt hpayload)

/-! ## The last step and a command word -/

theorem run_two {s t u : State} (hst : step s = .next t) (htu : step t = .next u) :
    Host.Core.run Sys2Proof.core 2 s = .next u := by
  rw [run_succ_of_next 1 hst, run_succ_of_next 0 htu, run_zero]

/-- The dropped word and the block's step touch nothing of each other's: the step does not see OVERRUN. -/
theorem run_word_then_blockStep {s t : State} (w : Word) (hbusy : s.busy = true)
    (hstep : blockStep { s with inputs := [] } = .next t) :
    Host.Core.run Sys2Proof.core 2 { s with inputs := [.hostWrite 0#4 w, .blockStep] } = .next { t with overrun := true } := by
  have hdrop : step { s with inputs := [.hostWrite 0#4 w, .blockStep] } =
      .next (dropCommand { s with inputs := [.blockStep] }) :=
    (step_of_hostWrite rfl).trans (commandPort_of_busy w hbusy)
  have hlast : step (dropCommand { s with inputs := [.blockStep] }) = .next { t with overrun := true } :=
    blockStep_setOverrun true hstep
  exact run_two hdrop hlast

/-- A legal word after the block's step is carried out on the state the step left. -/
theorem run_blockStep_then_word {s t : State} {w : Word} {i : Instr} (hdec : decode w = .ok i)
    (hstep : blockStep { s with inputs := [] } = .next t) :
    Host.Core.run Sys2Proof.core 2 { s with inputs := [.blockStep, .hostWrite 0#4 w] } = exec i t := by
  have hfirst : step { s with inputs := [.blockStep, .hostWrite 0#4 w] } = .next { t with inputs := [.hostWrite 0#4 w] } :=
    blockStep_setInputs (s := { s with inputs := [] }) [.hostWrite 0#4 w] hstep
  have hinputs : t.inputs = [] := (blockStep_outside hstep).1
  have hemptied : ({ t with inputs := [] } : State) = t := by rw [← hinputs]
  have hword : step { t with inputs := [.hostWrite 0#4 w] } = exec i t :=
    (step_of_hostWrite rfl).trans ((commandPort_of_decode _ hdec).trans (congrArg (exec i) hemptied))
  obtain ⟨u, hu⟩ := everyCommandAnswersANextState i t
  rw [hu] at hword ⊢
  exact run_two hfirst hword

/-- Settles O53: the step is the same in either order, and BUSY where the word arrives decides between drop and command. -/
theorem lastStepDecidesTheRace : Obligations.LastStepDecidesTheRace := fun _ _ w _ hbusy hdec hstep _ =>
  ⟨run_word_then_blockStep w hbusy hstep, run_blockStep_then_word hdec hstep⟩

end Sys2Proof.Machine
end

section
/-! SUPPORT. Reset (70_reset_and_hazards.md R190, R191), and the runs a model refuses (R197, R198; 60_exceptions.md R183):
which event is refused, under which name, and that no other is. -/

namespace Sys2Proof.Machine

/-! ## Which steps are refused -/

theorem hostWrite_answers (n : BitVec 4) (v : Word) (s : State) : ∃ t, hostWrite n v s = .next t := by
  unfold hostWrite
  split
  · exact commandPort_answers v s
  · exact ⟨s, rfl⟩

/-- The block's own step is refused outside the chip-select bracket, and nowhere else. -/
theorem blockStep_refused_iff {s : State} {why : Refusal} :
    blockStep s = .refused why ↔ s.busy = true ∧ s.selected = false ∧ why = .chipSelectNotAsserted := by
  rw [busy_eq_true_iff]
  refine ⟨blockStep_refused, ?_⟩
  rintro ⟨hphase, hsel, rfl⟩
  exact blockStep_of_deselected hphase hsel

/-- The event `e`, arriving at the state `s`, is one the spec has a model refuse, and `why` is its name (R183, R197, R198,
D16). -/
@[simp] def Input.RefusedAt (e : Input) (s : State) (why : Refusal) : Prop :=
  match e with
  | .hostExchange => s.busy = true ∧ why = .hostExchangeWhileBusy
  | .transportReopen => s.busy = true ∧ why = .transportReopenWhileBusy
  | .chipSelect asserted => s.busy = true ∧ asserted = false ∧ why = .chipSelectReleasedWhileBusy
  | .blockStep => s.busy = true ∧ s.selected = false ∧ why = .chipSelectNotAsserted
  | .secondHostAccess => why = .secondHost
  | .hostWrite _ _ | .hostRead _ | .wait | .reset => False

/-- The machine refuses exactly the events that are to be refused, each under its own name. -/
theorem onInput_refused_iff (e : Input) (s : State) (why : Refusal) :
    onInput e s = .refused why ↔ e.RefusedAt s why := by
  cases e with
  | hostWrite n v =>
    obtain ⟨t, ht⟩ := hostWrite_answers n v s
    simp [onInput, ht]
  | blockStep => exact blockStep_refused_iff
  | hostExchange | transportReopen => cases hb : s.busy <;> simp [onInput, hb, eq_comm]
  | chipSelect asserted => cases hb : s.busy <;> cases asserted <;> simp [onInput, hb, eq_comm]
  | secondHostAccess => simp [onInput, eq_comm]
  | hostRead | wait | reset => simp [onInput]

/-- Whether an event is refused does not depend on the events after it. -/
theorem Input.refusedAt_setInputs (e : Input) (s : State) (is : List Input) (why : Refusal) :
    e.RefusedAt { s with inputs := is } why ↔ e.RefusedAt s why := Iff.rfl

/-- A step is refused exactly where its event is, the block's own step being the event of an empty list of inputs. -/
theorem step_refused_iff (s : State) (why : Refusal) :
    step s = .refused why ↔
      (s.inputs = [] ∧ Input.blockStep.RefusedAt s why) ∨ ∃ e rest, s.inputs = e :: rest ∧ e.RefusedAt s why := by
  cases hin : s.inputs with
  | nil =>
    rw [step_of_nil hin, blockStep_refused_iff]
    simp
  | cons e rest =>
    rw [step_of_cons hin, onInput_refused_iff, Input.refusedAt_setInputs]
    simp [and_assoc]

/-! ## What the host's acts do where they are not refused -/

theorem onInput_hostExchange_of_idle {s : State} (h : s.busy = false) : onInput .hostExchange s = .next s := by
  simp [onInput, h]

theorem onInput_transportReopen_of_idle {s : State} (h : s.busy = false) : onInput .transportReopen s = .next s := by
  simp [onInput, h]

theorem onInput_chipSelect {s : State} {a : Bool} (h : s.busy = false ∨ a = true) :
    onInput (.chipSelect a) s = .next { s with selected := a } := by
  rcases h with h | rfl
  · simp [onInput, h]
  · simp [onInput]

/-- Settles O39: the refused events one by one, and the answers of the host's other acts. -/
theorem onlyTheNamedRunsAreRefused : Obligations.OnlyTheNamedRunsAreRefused := by
  refine ⟨fun s why => ?_,
    fun s rest h hin => (step_of_cons hin).trans (onInput_hostExchange_of_idle h),
    fun s rest h hin => (step_of_cons hin).trans (onInput_transportReopen_of_idle h),
    fun s rest a h hin => (step_of_cons hin).trans (onInput_chipSelect h)⟩
  rw [step_refused_iff]
  cases hin : s.inputs with
  | nil => simp
  | cons e rest => cases e <;> simp [and_assoc]

/-! ## Reset -/

/-- Settles O37: STATUS from its four parts, and BUF from nothing having been written yet. -/
theorem resetLeavesTheStatedValues : Obligations.ResetLeavesTheStatedValues :=
  ⟨rfl, rfl, rfl, rfl, rfl, statusWord_eq_zero rfl rfl rfl rfl, rfl, rfl, rfl, rfl, fun _ => bufByte_of_unwritten rfl⟩

theorem resetBlock_statusWord (s : State) : (resetBlock s).statusWord = 0x00000000#32 := statusWord_eq_zero rfl rfl rfl rfl

theorem resetBlock_bufByte (s : State) (a : Nat) :
    (resetBlock s).bufByte a = Config.bufAtReset (resetBlock s).bufDraw a := bufByte_of_unwritten rfl

/-- Settles O38: the step is `resetBlock` on the state with the event taken off, whatever the state was. -/
theorem resetAbandonsTheCommand : Obligations.ResetAbandonsTheCommand := by
  intro s rest hin
  refine ⟨resetBlock { s with inputs := rest }, step_of_cons hin, ?_⟩
  simp [resetBlock_statusWord, resetBlock_bufByte]

end Sys2Proof.Machine
end
